-- ==== Sys2Proof/Word.lean ====
section
/-! DEFINITION. The word types of OP-BLR: the widths of 00_scope R8, R10, R14 and nothing else. -/

namespace Sys2Proof

/-- One byte of a serialised command (20_memory R65). -/
abbrev Byte := BitVec 8

/-- The command word `W` (00_scope R14). -/
abbrev Word := BitVec 32

/-- The data operand `D`, and the read-data register `RDATA` (00_scope R14). -/
abbrev Data := BitVec 64

/-- A value of the audio path, held as its binary64 bit pattern (00_scope R10, R14).  `asSample` and
`bitsOf` are therefore both the identity. -/
abbrev Sample := BitVec 64

/-- A voice slot `v`, 0 to 15 (00_scope R11). -/
abbrev Slot := BitVec 4

/-- Where in a command a Sample operation stands: it names the free NaN pattern that operation takes
(U12; log 4). -/
abbrev Site := List Nat

end Sys2Proof
end

