-- ==== Sys2Proof/Syntax.lean ====
section
/-! DEFINITION. The commands of OP-BLR, one constructor per row of spec/opcode_table.json, and the pair
of words a command is presented as. -/

namespace Sys2Proof

/-- A command as the host presents it: `W` and `D` (30_encoding R80). -/
structure Command where
  w : Word
  d : Data
  deriving DecidableEq, Repr

/-- One constructor per command (30_encoding R83).  A constructor holds every field of `W` that its row
does not fix and every part of `D` it uses (R82), the must-be-0 parts of `D` included, since those are
checked by execution (`OPERAND`, R86) and not by the decoder.  Reserved field values (`mode` 3, `k` 5 to
7, `type` 3) can be written: R84 leaves their check to execution. -/
inductive Instr where
  /-- `NOP` (46_system R230). -/
  | nop
  /-- `NOTEON` (40_envelope R111): `W[6:0]`, `W[9:8]`, `W[12]`, `W[13]`, `W[14]`; `D[7:0]`, `D[23:8]`,
  `D[39:24]`, `D[63:40]`. -/
  | noteon (vel : BitVec 7) (mode : BitVec 2) (psg held bqen : Bool) (atk : BitVec 8)
      (dec rel : BitVec 16) (sus : BitVec 24)
  /-- `RELEASE v` (40_envelope R113). -/
  | release (v : Slot)
  /-- `CUT v` (40_envelope R114). -/
  | cut (v : Slot)
  /-- `SETEND v, end` (40_envelope R115): `D[31:0]` and the must-be-0 `D[63:32]`. -/
  | setend (v : Slot) (endTick : BitVec 32) (mbz : BitVec 32)
  /-- `TICK` (40_envelope R116). -/
  | tick
  /-- `BSTEP v, off, ph, value` (42_blr R160). -/
  | bstep (v : Slot) (off : BitVec 10) (ph : BitVec 6) (x : Sample)
  /-- `BREAD v` (42_blr R164). -/
  | bread (v : Slot)
  /-- `VDIRECT v, value` (42_blr R166). -/
  | vdirect (v : Slot) (x : Sample)
  /-- `BQCOEF v, stage, k, value` (43_biquad R181). -/
  | bqcoef (v : Slot) (stage : BitVec 1) (k : BitVec 3) (x : Sample)
  /-- `LFOCFG type, depth, range, speed, delay` (44_lfo R191), with the must-be-0 `D[63:40]`. -/
  | lfocfg (type : BitVec 2) (depth range speed : BitVec 8) (delay : BitVec 16) (mbz : BitVec 24)
  /-- `VGAIN v, ch, value` (45_mixer R212). -/
  | vgain (v : Slot) (ch : BitVec 1) (x : Sample)
  /-- `MGAIN ch, value` (45_mixer R213). -/
  | mgain (ch : BitVec 1) (x : Sample)
  /-- `MIX` (45_mixer R214). -/
  | mix
  /-- `FRAME` (45_mixer R216). -/
  | frame
  /-- `RDREG v, r` (46_system R231). -/
  | rdreg (v : Slot) (r : BitVec 8)
  /-- `RDBUF v, idx` (46_system R232). -/
  | rdbuf (v : Slot) (idx : BitVec 16)
  /-- `RDK ph, tap` (46_system R233). -/
  | rdk (ph : BitVec 6) (tap : BitVec 16)
  /-- `RDROM tbl, idx` (46_system R234). -/
  | rdrom (tbl : BitVec 2) (idx : BitVec 16)
  deriving DecidableEq, Repr

end Sys2Proof
end

