-- ==== Sys2Proof/WellFormed.lean ====
section
/-! DEFINITION. Which commands are legal by `W` alone (30_encoding R85 c, R86): no reserved field value.
Every other field of `Instr` has exactly its encoding's width, so nothing else can be ill-formed. -/

namespace Sys2Proof

/-- No reserved field value: `NOTEON` `mode` 3, `BQCOEF` `k` 5 to 7, `LFOCFG` `type` 3 (30_encoding R85 c). -/
def Instr.wellFormed : Instr → Bool
  | .nop => true
  | .noteon _ mode _ _ _ _ _ _ _ => mode != 3
  | .release _ => true
  | .cut _ => true
  | .setend _ _ _ => true
  | .tick => true
  | .bstep _ _ _ _ => true
  | .bread _ => true
  | .vdirect _ _ => true
  | .bqcoef _ _ k _ => k.toNat ≤ 4
  | .lfocfg type _ _ _ _ _ => type != 3
  | .vgain _ _ _ => true
  | .mgain _ _ => true
  | .mix => true
  | .frame => true
  | .rdreg _ _ => true
  | .rdbuf _ _ => true
  | .rdk _ _ => true
  | .rdrom _ _ => true

/-- The command is legal by its word alone. -/
abbrev Instr.WellFormed (i : Instr) : Prop := i.wellFormed = true

end Sys2Proof
end

