-- ==== Sys2Proof/Decode.lean ====
section
/-! DEFINITION. Decoding of a command (30_encoding R81 to R85), total on any words and any bytes and
rejecting by name, and after it the encoder. -/

namespace Sys2Proof

/-- The nineteen opcodes of the table (30_encoding R83). -/
inductive Op where
  | nop | noteon | release | cut | setend | tick | bstep | bread | vdirect | bqcoef | lfocfg
  | vgain | mgain | mix | frame | rdreg | rdbuf | rdk | rdrom
  deriving DecidableEq, Repr

/-- One row of the opcode table: a word selects it iff `W & mask = pattern` (30_encoding R83). -/
structure Row where
  op : Op
  pattern : Word
  mask : Word
  deriving DecidableEq, Repr

/-- Why no row selects a word (30_encoding R85 a, b), or why bytes are no record (20_memory R65). -/
inductive DecodeError where
  /-- `W[31:24]` is none of the nineteen opcodes (R85 a). -/
  | unassignedOpcode (op : BitVec 8)
  /-- A listed opcode with a must-be-0 bit of `W` set (R85 b). -/
  | reservedBitSet (op : Op)
  /-- Fewer than the twelve bytes of a record (R65; log 20). -/
  | truncatedRecord
  deriving DecidableEq, Repr

/-! ## The table -/

/-- The `match` and `mask` columns of 30_encoding R83. -/
def Op.row : Op → Row
  | .nop => ⟨.nop, 0x00000000, 0xFFFFFFFF⟩
  | .noteon => ⟨.noteon, 0x01000000, 0xFFFF8C80⟩
  | .release => ⟨.release, 0x02000000, 0xFF0FFFFF⟩
  | .cut => ⟨.cut, 0x03000000, 0xFF0FFFFF⟩
  | .setend => ⟨.setend, 0x04000000, 0xFF0FFFFF⟩
  | .tick => ⟨.tick, 0x05000000, 0xFFFFFFFF⟩
  | .bstep => ⟨.bstep, 0x08000000, 0xFF0F0000⟩
  | .bread => ⟨.bread, 0x09000000, 0xFF0FFFFF⟩
  | .vdirect => ⟨.vdirect, 0x0A000000, 0xFF0FFFFF⟩
  | .bqcoef => ⟨.bqcoef, 0x0C000000, 0xFF0FFFE8⟩
  | .lfocfg => ⟨.lfocfg, 0x10000000, 0xFFFFFFFC⟩
  | .vgain => ⟨.vgain, 0x14000000, 0xFF0FFFFE⟩
  | .mgain => ⟨.mgain, 0x15000000, 0xFFFFFFFE⟩
  | .mix => ⟨.mix, 0x16000000, 0xFFFFFFFF⟩
  | .frame => ⟨.frame, 0x17000000, 0xFFFFFFFF⟩
  | .rdreg => ⟨.rdreg, 0x20000000, 0xFF0FFF00⟩
  | .rdbuf => ⟨.rdbuf, 0x21000000, 0xFF0F0000⟩
  | .rdk => ⟨.rdk, 0x22000000, 0xFFC00000⟩
  | .rdrom => ⟨.rdrom, 0x23000000, 0xFFFC0000⟩

/-- The opcode whose number `W[31:24]` is, if it is assigned (30_encoding R83, R85 a). -/
def Op.ofNum (n : BitVec 8) : Option Op :=
  match n.toNat with
  | 0x00 => some .nop
  | 0x01 => some .noteon
  | 0x02 => some .release
  | 0x03 => some .cut
  | 0x04 => some .setend
  | 0x05 => some .tick
  | 0x08 => some .bstep
  | 0x09 => some .bread
  | 0x0A => some .vdirect
  | 0x0C => some .bqcoef
  | 0x10 => some .lfocfg
  | 0x14 => some .vgain
  | 0x15 => some .mgain
  | 0x16 => some .mix
  | 0x17 => some .frame
  | 0x20 => some .rdreg
  | 0x21 => some .rdbuf
  | 0x22 => some .rdk
  | 0x23 => some .rdrom
  | _ => none

/-- The whole table, in its order. -/
def opTable : List Row :=
  [Op.row .nop, Op.row .noteon, Op.row .release, Op.row .cut, Op.row .setend, Op.row .tick,
    Op.row .bstep, Op.row .bread, Op.row .vdirect, Op.row .bqcoef, Op.row .lfocfg, Op.row .vgain,
    Op.row .mgain, Op.row .mix, Op.row .frame, Op.row .rdreg, Op.row .rdbuf, Op.row .rdk, Op.row .rdrom]

/-- `W & mask = match` (30_encoding R83). -/
def Row.selects (r : Row) (w : Word) : Bool := w &&& r.mask == r.pattern

/-! ## Fields -/

/-- `X[lo + n - 1 : lo]` (00_scope R8). -/
def field {m : Nat} (x : BitVec m) (lo n : Nat) : BitVec n := x.extractLsb' lo n

/-- `X[i]` (00_scope R8). -/
def bitAt {m : Nat} (x : BitVec m) (i : Nat) : Bool := x.getLsbD i

/-- The operands of a command whose row is known (30_encoding R81, R82). -/
def Op.operands (op : Op) (w : Word) (d : Data) : Instr :=
  match op with
  | .nop => .nop
  | .noteon => .noteon (field w 0 7) (field w 8 2) (bitAt w 12) (bitAt w 13) (bitAt w 14)
      (field d 0 8) (field d 8 16) (field d 24 16) (field d 40 24)
  | .release => .release (field w 20 4)
  | .cut => .cut (field w 20 4)
  | .setend => .setend (field w 20 4) (field d 0 32) (field d 32 32)
  | .tick => .tick
  | .bstep => .bstep (field w 20 4) (field w 6 10) (field w 0 6) d
  | .bread => .bread (field w 20 4)
  | .vdirect => .vdirect (field w 20 4) d
  | .bqcoef => .bqcoef (field w 20 4) (field w 4 1) (field w 0 3) d
  | .lfocfg => .lfocfg (field w 0 2) (field d 0 8) (field d 8 8) (field d 16 8) (field d 24 16)
      (field d 40 24)
  | .vgain => .vgain (field w 20 4) (field w 0 1) d
  | .mgain => .mgain (field w 0 1) d
  | .mix => .mix
  | .frame => .frame
  | .rdreg => .rdreg (field w 20 4) (field w 0 8)
  | .rdbuf => .rdbuf (field w 20 4) (field w 0 16)
  | .rdk => .rdk (field w 16 6) (field w 0 16)
  | .rdrom => .rdrom (field w 16 2) (field w 0 16)

/-- The decoder (30_encoding R84): the row whose opcode `W[31:24]` is, if `W` has its must-be-0 bits
clear.  Everything else is rejected by name. -/
def decode (c : Command) : Except DecodeError Instr :=
  match Op.ofNum (field c.w 24 8) with
  | none => .error (.unassignedOpcode (field c.w 24 8))
  | some op => if op.row.selects c.w then .ok (op.operands c.w c.d) else .error (.reservedBitSet op)

/-! ## The encoder (30_encoding R81, R82) -/

/-- One bit. -/
def bit1 (b : Bool) : BitVec 1 := BitVec.ofBool b

/-- The opcode of a command (30_encoding R83). -/
def Instr.op : Instr → Op
  | .nop => .nop
  | .noteon _ _ _ _ _ _ _ _ _ => .noteon
  | .release _ => .release
  | .cut _ => .cut
  | .setend _ _ _ => .setend
  | .tick => .tick
  | .bstep _ _ _ _ => .bstep
  | .bread _ => .bread
  | .vdirect _ _ => .vdirect
  | .bqcoef _ _ _ _ => .bqcoef
  | .lfocfg _ _ _ _ _ _ => .lfocfg
  | .vgain _ _ _ => .vgain
  | .mgain _ _ => .mgain
  | .mix => .mix
  | .frame => .frame
  | .rdreg _ _ => .rdreg
  | .rdbuf _ _ => .rdbuf
  | .rdk _ _ => .rdk
  | .rdrom _ _ => .rdrom

/-- Fields put together, the first in the high bits (00_scope R8), as a command word. -/
def toWord {n : Nat} (x : BitVec n) : Word := x.setWidth 32

/-- Fields put together, the first in the high bits (00_scope R8), as a data operand. -/
def toData {n : Nat} (x : BitVec n) : Data := x.setWidth 64

/-- `W` of a command. -/
def Instr.word : Instr → Word
  | .nop => toWord (0x00#8 ++ 0#24)
  | .noteon vel mode psg held bqen _ _ _ _ =>
      toWord (0x01#8 ++ 0#9 ++ bit1 bqen ++ bit1 held ++ bit1 psg ++ 0#2 ++ mode ++ 0#1 ++ vel)
  | .release v => toWord (0x02#8 ++ v ++ 0#20)
  | .cut v => toWord (0x03#8 ++ v ++ 0#20)
  | .setend v _ _ => toWord (0x04#8 ++ v ++ 0#20)
  | .tick => toWord (0x05#8 ++ 0#24)
  | .bstep v off ph _ => toWord (0x08#8 ++ v ++ 0#4 ++ off ++ ph)
  | .bread v => toWord (0x09#8 ++ v ++ 0#20)
  | .vdirect v _ => toWord (0x0A#8 ++ v ++ 0#20)
  | .bqcoef v stage k _ => toWord (0x0C#8 ++ v ++ 0#15 ++ stage ++ 0#1 ++ k)
  | .lfocfg type _ _ _ _ _ => toWord (0x10#8 ++ 0#22 ++ type)
  | .vgain v ch _ => toWord (0x14#8 ++ v ++ 0#19 ++ ch)
  | .mgain ch _ => toWord (0x15#8 ++ 0#23 ++ ch)
  | .mix => toWord (0x16#8 ++ 0#24)
  | .frame => toWord (0x17#8 ++ 0#24)
  | .rdreg v r => toWord (0x20#8 ++ v ++ 0#12 ++ r)
  | .rdbuf v idx => toWord (0x21#8 ++ v ++ 0#4 ++ idx)
  | .rdk ph tap => toWord (0x22#8 ++ 0#2 ++ ph ++ tap)
  | .rdrom tbl idx => toWord (0x23#8 ++ 0#6 ++ tbl ++ idx)

/-- `D` of a command; zero where the command ignores `D` (30_encoding R80, R82). -/
def Instr.data : Instr → Data
  | .noteon _ _ _ _ _ atk dec rel sus => toData (sus ++ rel ++ dec ++ atk)
  | .setend _ endTick mbz => toData (mbz ++ endTick)
  | .bstep _ _ _ x => x
  | .vdirect _ x => x
  | .bqcoef _ _ _ x => x
  | .lfocfg _ depth range speed delay mbz => toData (mbz ++ delay ++ speed ++ range ++ depth)
  | .vgain _ _ x => x
  | .mgain _ x => x
  | .nop => 0
  | .release _ => 0
  | .cut _ => 0
  | .tick => 0
  | .bread _ => 0
  | .mix => 0
  | .frame => 0
  | .rdreg _ _ => 0
  | .rdbuf _ _ => 0
  | .rdk _ _ => 0
  | .rdrom _ _ => 0

/-- The pair of words that presents a command. -/
def encode (i : Instr) : Command := ⟨i.word, i.data⟩

/-! ## Serialised commands (20_memory R65) -/

/-- The twelve bytes of a command: `W` little-endian, then `D` little-endian. -/
def Command.record (c : Command) : List Byte :=
  [field c.w 0 8, field c.w 8 8, field c.w 16 8, field c.w 24 8,
    field c.d 0 8, field c.d 8 8, field c.d 16 8, field c.d 24 8,
    field c.d 32 8, field c.d 40 8, field c.d 48 8, field c.d 56 8]

/-- Reads one record from the front of a byte stream and answers the rest with it. -/
def readRecord : List Byte → Option (Command × List Byte)
  | w0 :: w1 :: w2 :: w3 :: d0 :: d1 :: d2 :: d3 :: d4 :: d5 :: d6 :: d7 :: rest =>
      some (⟨toWord (w3 ++ w2 ++ w1 ++ w0), toData (d7 ++ d6 ++ d5 ++ d4 ++ d3 ++ d2 ++ d1 ++ d0)⟩, rest)
  | _ => none

/-- The decoder on bytes: one record, decoded, and the bytes after it. -/
def decodeBytes (bs : List Byte) : Except DecodeError (Instr × List Byte) :=
  match readRecord bs with
  | none => .error .truncatedRecord
  | some (c, rest) =>
    match decode c with
    | .ok i => .ok (i, rest)
    | .error e => .error e

/-- The command whose bits are `w` in the numbering of spec/opcode_table.json: bits 31..0 are `W`, and
the bits that follow are `D`; every bit from `nbits` up is 0. -/
def tableCommand (nbits w : Nat) : Command :=
  let bits := w % 2 ^ nbits
  ⟨BitVec.ofNat 32 bits, BitVec.ofNat 64 (bits / 2 ^ 32)⟩

/-- The command the decoder reads from those bits, laid out as the twelve bytes of a record. -/
def decodeTableWord (nbits w : Nat) : Option Instr :=
  match decodeBytes (tableCommand nbits w).record with
  | .ok (i, _) => some i
  | .error _ => none

end Sys2Proof
end

