-- ==== Sys2Proof/Config.lean ====
section
/-! DEFINITION. The configuration record `CFG` (00_scope R6, R7) and the free values of the model. -/

namespace Sys2Proof

/-- `NUM`, the numerics of the `Sample` type (00_scope R6, R10): the default, or any other record of the
primitives R10 lists, which stand uninterpreted below and are told apart by a number (U1; log 3). -/
inductive Num where
  | binary64
  | other (k : Nat)
  deriving DecidableEq, Repr

/-- The OPEN parameters of `CFG` (00_scope R6).  The parameters the spec fixes (`NV`, `NP`, `NSTAGE`,
`T0`, `ID_VALUE`) are constants of Machine/Params.lean.

`lindb` carries its own shape: R6 gives `N_LIN = -DB_MIN + 1` and `DB_MIN <= -241`, so its length is at
least 242 and fixes `DB_MIN`; `CFG_DBMIN` is an s64 (10_state R24), whence the upper bound (log 10).
`ks` and `bufsz` are plain numbers and `kbank` is a plain table, because a `KS` that is no integer, a
`BUFSZ` that is no power of two and a misshapen table are malformed configurations (41_kernel_bank R145;
log 12). -/
structure Cfg where
  /-- `NUM`, the numerics of the audio path. -/
  num : Num
  /-- `KS`, taps per phase kernel. -/
  ks : Rat
  /-- `NORM`, the normalize flag. -/
  norm : Bool
  /-- `FR`, the filter ratio. -/
  fr : Sample
  /-- `MP`, the minimum-phase flag. -/
  mp : Bool
  /-- `KBANK`, one list of taps per phase (41_kernel_bank R140). -/
  kbank : List (List Sample)
  /-- `BUFSZ`, accumulation-buffer slots per voice. -/
  bufsz : Rat
  /-- `DBVEL`, 128 entries, s16. -/
  dbvel : Vector (BitVec 16) 128
  /-- `LINDB`, `N_LIN` entries, u8. -/
  lindb : { l : List (BitVec 8) // 242 ≤ l.length ∧ l.length ≤ 2 ^ 63 }
  /-- `QSIN`, 36 entries, u8. -/
  qsin : Vector (BitVec 8) 36
  deriving DecidableEq, Repr

/-! ## Another `NUM`: the primitives of 00_scope R10, of which nothing is assumed (log 3) -/

/-- `S0`. -/
opaque Config.numZero : Nat → Sample

/-- `S1`. -/
opaque Config.numOne : Nat → Sample

/-- `sOfInt(n)`. -/
opaque Config.numOfInt : Nat → Int → Sample

/-- `a +s b`. -/
opaque Config.numAdd : Nat → Sample → Sample → Sample

/-- `a -s b`. -/
opaque Config.numSub : Nat → Sample → Sample → Sample

/-- `a *s b`. -/
opaque Config.numMul : Nat → Sample → Sample → Sample

/-- `a /s b`. -/
opaque Config.numDiv : Nat → Sample → Sample → Sample

/-- `finite(a)`. -/
opaque Config.numFinite : Nat → Sample → Bool

/-- `0 < a <= 1`, which 41_kernel_bank R145 asks of `FR` beside the primitives of R10. -/
opaque Config.numInUnit : Nat → Sample → Bool

/-! ## Free values -/

/-- FREE VALUE (U12; log 4): the bits a Sample operation that yields a NaN would leave, before
`F64.nan` keeps only the NaN patterns among them. -/
opaque Config.freeNan : Site → BitVec 64

/-- FREE VALUE (log 9): bits [15:0] of `CFG_KS` for a `KS` that is no u16. -/
opaque Config.freeKsField : Rat → BitVec 16

/-- FREE VALUE (log 9): `CFG_BUFSZ` for a `BUFSZ` that is no u64. -/
opaque Config.freeBufszField : Rat → BitVec 64

end Sys2Proof
end

