-- ==== Sys2Proof/Machine/Float.lean ====
section
/-! DEFINITION. The default `NUM` of the audio path (00_scope R10): IEEE 754 binary64 with
every operation correctly rounded to nearest, ties to even, and no two operations fused (D5; log 3).

A finite value is counted exactly, as a whole number of units of `2^-1074` (the least positive
binary64 value); an operation computes its exact result as a fraction and rounds it once. -/

namespace Sys2Proof.Machine

/-! ## Reading a bit pattern -/

/-- The eleven exponent bits. -/
def F64.expo (x : Sample) : Nat := (x.extractLsb' 52 11).toNat

/-- The fifty-two fraction bits. -/
def F64.frac (x : Sample) : Nat := (x.extractLsb' 0 52).toNat

/-- The sign bit, bit 63 (00_scope R14). -/
def F64.sign (x : Sample) : Bool := x.msb

/-- The predicate `finite(a)` of 00_scope R10: neither an infinity nor a NaN. -/
def F64.finite (x : Sample) : Bool := F64.expo x != 2047

def F64.isNaN (x : Sample) : Bool := F64.expo x == 2047 && F64.frac x != 0

def F64.isInf (x : Sample) : Bool := F64.expo x == 2047 && F64.frac x == 0

/-- A zero of either sign. -/
def F64.isZero (x : Sample) : Bool := F64.expo x == 0 && F64.frac x == 0

/-- The magnitude of a finite value in units of `2^-1074`. -/
def F64.magnitude (x : Sample) : Nat :=
  if F64.expo x = 0 then F64.frac x else (F64.frac x + 2 ^ 52) * 2 ^ (F64.expo x - 1)

/-- A finite value, exactly, in units of `2^-1074`. -/
def F64.scaled (x : Sample) : Int :=
  if F64.sign x then -(F64.magnitude x : Int) else (F64.magnitude x : Int)

/-- One, in units of `2^-1074`. -/
def F64.unit : Nat := 2 ^ 1074

/-! ## Building a bit pattern -/

/-- The pattern with the given sign bit and the given low sixty-three bits. -/
def F64.ofSign (neg : Bool) (low : Nat) : Sample := BitVec.ofNat 64 (if neg then 2 ^ 63 + low else low)

/-- The infinity of a sign. -/
def F64.inf (neg : Bool) : Sample := F64.ofSign neg (2047 * 2 ^ 52)

/-- A NaN: a FREE VALUE among the NaN patterns (U12; log 4). -/
def F64.nan (p : Site) : Sample :=
  if F64.isNaN (Config.freeNan p) then Config.freeNan p else 0x7FF8000000000000#64

/-- The binary64 value nearest to `num / den` units of `2^-1074`, ties to even, with the given sign;
an infinity where the rounded magnitude is beyond the largest finite value. -/
def F64.round (neg : Bool) (num den : Nat) : Sample :=
  let shift := Nat.log2 (num / den) - 52
  let ulp := 2 ^ shift * den
  let down := num / ulp
  let twice := 2 * (num % ulp)
  let man := if ulp < twice ∨ (twice = ulp ∧ down % 2 = 1) then down + 1 else down
  let low := shift * 2 ^ 52 + man
  if 2047 * 2 ^ 52 ≤ low then F64.inf neg else F64.ofSign neg low

/-! ## The primitives of 00_scope R10 -/

/-- `S0`, positive zero. -/
def F64.s0 : Sample := 0x0000000000000000#64

/-- `S1`, one. -/
def F64.s1 : Sample := 0x3FF0000000000000#64

/-- `sOfInt(n)`. -/
def F64.ofInt (n : Int) : Sample := F64.round (decide (n < 0)) (n.natAbs * F64.unit) 1

/-- `0 < a <= 1`: a positive pattern that is not zero and not above that of one, since the order of
positive values is the order of their patterns (`inUnit_iff` in Laws/Float.lean). -/
def F64.inUnit (a : Sample) : Bool :=
  !F64.sign a && decide (a ≠ F64.s0) && decide (a.toNat ≤ F64.s1.toNat)

/-- The operand with its sign bit flipped. -/
def F64.neg (a : Sample) : Sample := a ^^^ 0x8000000000000000#64

/-- `a +s b`. -/
def F64.add (p : Site) (a b : Sample) : Sample :=
  if F64.isNaN a || F64.isNaN b then F64.nan p
  else if F64.isInf a then
    if F64.isInf b && F64.sign a != F64.sign b then F64.nan p else a
  else if F64.isInf b then b
  else
    let sum := F64.scaled a + F64.scaled b
    if sum = 0 then F64.ofSign (F64.sign a && F64.sign b) 0
    else F64.round (decide (sum < 0)) sum.natAbs 1

/-- `a -s b`, which binary64 defines as `a +s (-b)`. -/
def F64.sub (p : Site) (a b : Sample) : Sample := F64.add p a (F64.neg b)

/-- `a *s b`. -/
def F64.mul (p : Site) (a b : Sample) : Sample :=
  let neg := F64.sign a != F64.sign b
  if F64.isNaN a || F64.isNaN b then F64.nan p
  else if F64.isInf a || F64.isInf b then
    if F64.isZero a || F64.isZero b then F64.nan p else F64.inf neg
  else F64.round neg (F64.magnitude a * F64.magnitude b) F64.unit

/-- `a /s b`. -/
def F64.div (p : Site) (a b : Sample) : Sample :=
  let neg := F64.sign a != F64.sign b
  if F64.isNaN a || F64.isNaN b then F64.nan p
  else if F64.isInf a then
    if F64.isInf b then F64.nan p else F64.inf neg
  else if F64.isInf b then F64.ofSign neg 0
  else if F64.isZero b then
    if F64.isZero a then F64.nan p else F64.inf neg
  else F64.round neg (F64.magnitude a * F64.unit) (F64.magnitude b)

end Sys2Proof.Machine
end

