-- ==== Sys2Proof/Machine/Numerics.lean ====
section
/-! DEFINITION. The primitives of `CFG.NUM` (00_scope R10), through which the machine does all its Sample
arithmetic: those of binary64 under the default, the uninterpreted ones of Config.lean under any other
`NUM` (log 3).  A site matters only where a NaN pattern is free, under the default (log 4). -/

namespace Sys2Proof

open Sys2Proof.Machine

/-- `S0`. -/
def Num.s0 : Num → Sample
  | .binary64 => F64.s0
  | .other k => Config.numZero k

/-- `S1`. -/
def Num.s1 : Num → Sample
  | .binary64 => F64.s1
  | .other k => Config.numOne k

/-- `sOfInt(n)`. -/
def Num.ofInt (num : Num) (n : Int) : Sample :=
  match num with
  | .binary64 => F64.ofInt n
  | .other k => Config.numOfInt k n

/-- `a +s b`. -/
def Num.add (num : Num) (p : Site) (a b : Sample) : Sample :=
  match num with
  | .binary64 => F64.add p a b
  | .other k => Config.numAdd k a b

/-- `a -s b`. -/
def Num.sub (num : Num) (p : Site) (a b : Sample) : Sample :=
  match num with
  | .binary64 => F64.sub p a b
  | .other k => Config.numSub k a b

/-- `a *s b`. -/
def Num.mul (num : Num) (p : Site) (a b : Sample) : Sample :=
  match num with
  | .binary64 => F64.mul p a b
  | .other k => Config.numMul k a b

/-- `a /s b`. -/
def Num.div (num : Num) (p : Site) (a b : Sample) : Sample :=
  match num with
  | .binary64 => F64.div p a b
  | .other k => Config.numDiv k a b

/-- `finite(a)`. -/
def Num.finite (num : Num) (a : Sample) : Bool :=
  match num with
  | .binary64 => F64.finite a
  | .other k => Config.numFinite k a

/-- `0 < a <= 1` (41_kernel_bank R145). -/
def Num.inUnit (num : Num) (a : Sample) : Bool :=
  match num with
  | .binary64 => F64.inUnit a
  | .other k => Config.numInUnit k a

end Sys2Proof
end

