-- ==== Sys2Proof/Machine/Params.lean ====
section
/-! DEFINITION. The parameters of 00_scope R6: the values the spec fixes, what follows from `CFG`, the
check of 41_kernel_bank R145, and the configuration the reset machine carries (log 1). -/

namespace Sys2Proof.Machine

/-- `NV`, voice slots in the pool. -/
def nv : Nat := 16

/-- `NP`, phases of the kernel bank. -/
def np : Nat := 64

/-- `NSTAGE`, biquad sections in the chain. -/
def nstage : Nat := 2

/-- `T0`, the initial and terminal envelope timer. -/
def t0 : Int := -92544

/-- `ID_VALUE`. -/
def idValue : BitVec 64 := 0x4F50424C52000001#64

/-- `N_LIN`, entries of `LINDB`. -/
def nLin (c : Cfg) : Nat := c.lindb.val.length

/-- `DB_MIN`, from `N_LIN = -DB_MIN + 1` (00_scope R6; log 10). -/
def dbMin (c : Cfg) : Int := 1 - (nLin c : Int)

/-- How many of the numbers 0, 1, 2, ... lie below `q`. -/
def countBelow (q : Rat) : Nat := q.ceil.toNat

/-- Taps of a kernel, numbered `i` with `0 <= i < KS` (41_kernel_bank R140): `KS` itself, but under a
malformed `KS`, where no command looks (log 12). -/
def nTaps (c : Cfg) : Nat := countBelow c.ks

/-- Slots of a buffer, numbered `j` with `0 <= j < BUFSZ` (20_memory R60): `BUFSZ` itself, but under a
malformed `BUFSZ`, where no command looks (log 12). -/
def nSlots (c : Cfg) : Nat := countBelow c.bufsz

/-! ## Malformed kernel parameters (41_kernel_bank R145) -/

def isPowerOfTwo (n : Nat) : Bool := n != 0 && 2 ^ Nat.log2 n == n

/-- `KBANK` has shape `64 x KS` and holds finite values only. -/
def kbankOk (c : Cfg) : Bool :=
  c.kbank.length == np && c.kbank.all (fun row => (row.length : Rat) == c.ks && row.all c.num.finite)

/-- `KS` is an integer, even and in `2..BUFSZ`. -/
def ksOk (c : Cfg) : Bool := c.ks.den == 1 && 2 ≤ c.ks && c.ks.num % 2 == 0 && c.ks ≤ c.bufsz

/-- `BUFSZ` is a power of two, at most 65536. -/
def bufszOk (c : Cfg) : Bool := c.bufsz.den == 1 && isPowerOfTwo c.bufsz.num.toNat && c.bufsz ≤ 65536

/-- `FR` is finite and `0 < FR <= 1`. -/
def frOk (c : Cfg) : Bool := c.num.finite c.fr && c.num.inUnit c.fr

/-- The kernel parameters are malformed (41_kernel_bank R145). -/
def malformed (c : Cfg) : Bool := !(ksOk c && bufszOk c && frOk c && kbankOk c)

/-! ## The configuration of `State.reset`: `TCFG` of 95_test_vectors section 2 (log 1)

DESIGN CHOICE: the spec leaves these parameters OPEN.  No statement rests on them: statements quantify
over every configuration. -/

/-- `n / 64` for `n` up to 64, as a Sample: exponent and fraction read off the highest bit of `n`. -/
def sixtyFourths (n : Nat) : Sample :=
  if n = 0 then F64.s0
  else
    let k := Nat.log2 n
    BitVec.ofNat 64 ((1016 + k) * 2 ^ 52 + n * 2 ^ (52 - k))

/-- `LIN4` (41_kernel_bank R150). -/
def lin4 : List (List Sample) :=
  (List.range 64).map fun p => [F64.s0, sixtyFourths (64 - p), sixtyFourths p, F64.s0]

/-- `DBVEL` of `TROM`. -/
def tromDbvel : Vector (BitVec 16) 128 :=
  ⟨((List.range 128).map fun i => BitVec.ofInt 16 (4 * ((i : Int) - 127))).toArray, by simp⟩

/-- `LINDB` of `TROM`. -/
def tromLindb : { l : List (BitVec 8) // 242 ≤ l.length ∧ l.length ≤ 2 ^ 63 } :=
  ⟨(List.range 724).map fun k => BitVec.ofNat 8 (127 * k / 723), by simp⟩

/-- `QSIN` of `TSIN`. -/
def tsinQsin : Vector (BitVec 8) 36 :=
  ⟨((List.range 36).map fun i => BitVec.ofNat 8 (if i ≤ 32 then min 127 (4 * i) else 0)).toArray, by simp⟩

/-- `TCFG` (95_test_vectors section 2). -/
def resetCfg : Cfg where
  num := .binary64
  ks := 4
  norm := true
  fr := F64.s1
  mp := false
  kbank := lin4
  bufsz := 8
  dbvel := tromDbvel
  lindb := tromLindb
  qsin := tsinQsin

end Sys2Proof.Machine
end

