-- ==== Sys2Proof/Machine/State.lean ====
section
/-! DEFINITION. The state of OP-BLR (10_state, 20_memory), plain data, and its reset value (R46, R270,
R271); the reasons the model itself can stop. -/

namespace Sys2Proof.Machine

/-- The resampling algorithm of a voice (10_state R31); the value 3 cannot be written (log 14). -/
inductive Mode where
  | nearest | cubic | blstep
  deriving DecidableEq, Repr

/-- The envelope phase of a voice (10_state R34); the values 5 to 7 never occur (log 14). -/
inductive Phase where
  | idle | attack | decay | sustain | release
  deriving DecidableEq, Repr

/-- The LFO type (10_state R29); the value 3 cannot be written (log 14). -/
inductive LfoType where
  | pitch | volume | pan
  deriving DecidableEq, Repr

/-- One biquad section: coefficients (10_state R42) and state (R43). -/
structure Biquad where
  b0 : Sample
  b1 : Sample
  b2 : Sample
  a1 : Sample
  a2 : Sample
  x1 : Sample
  x2 : Sample
  y1 : Sample
  y2 : Sample
  deriving DecidableEq, Repr

/-- The identity filter with zero state: a section at reset and after `NOTEON` (10_state R42, R43). -/
def Biquad.reset (num : Num) : Biquad where
  b0 := num.s1
  b1 := num.s0
  b2 := num.s0
  a1 := num.s0
  a2 := num.s0
  x1 := num.s0
  x2 := num.s0
  y1 := num.s0
  y2 := num.s0

/-- The contents of one accumulation buffer `BUF[v]` (20_memory R60, R61): pairs of a slot index and the
Sample it holds, indexes strictly rising, no pair listed that holds `S0`.  A slot not listed holds `S0`,
the reset contents of every slot (10_state R46).  The cells are Samples and not bytes because the space
is word-addressed and no rule slices a word (R60, R65; log 13). -/
abbrev Memory := List (Nat × Sample)

/-- One voice slot (10_state section 3). -/
structure Voice where
  /-- `V_FLAGS` bit 0. -/
  active : Bool
  /-- `V_FLAGS` bit 1. -/
  psg : Bool
  /-- `V_FLAGS` bit 2. -/
  held : Bool
  /-- `V_FLAGS` bit 3. -/
  bqen : Bool
  /-- `V_FLAGS` bits 5:4. -/
  mode : Mode
  /-- `V_GEN`. -/
  gen : BitVec 32
  /-- `V_VEL`. -/
  vel : BitVec 7
  /-- `ENV_PHASE`. -/
  phase : Phase
  /-- `ENV_TIMER`, s32. -/
  timer : BitVec 32
  /-- `ENV_ATK`. -/
  atk : BitVec 8
  /-- `ENV_DEC`. -/
  dec : BitVec 16
  /-- `ENV_SUS`, s32. -/
  sus : BitVec 32
  /-- `ENV_REL`. -/
  rel : BitVec 16
  /-- `ENV_END`. -/
  endTick : BitVec 32
  /-- `ENV_VOL`. -/
  vol : Sample
  /-- `LFO_CNT`: fifteen bits, since bit 15 of the u16 is always 0 (44_lfo R193; log 14). -/
  lfoCnt : BitVec 15
  /-- `LFO_DLY`. -/
  lfoDly : BitVec 16
  /-- `LFO_OUT`, s32. -/
  lfoOut : BitVec 32
  /-- `BL_RD`, an index below `BUFSZ` (10_state R40). -/
  blRd : Nat
  /-- `BL_ACC`. -/
  blAcc : Sample
  /-- `BL_LAST`. -/
  blLast : Sample
  /-- `VOUT`. -/
  vout : Sample
  /-- `VGL`. -/
  vgl : Sample
  /-- `VGR`. -/
  vgr : Sample
  /-- `BQ[v][0]`. -/
  bq0 : Biquad
  /-- `BQ[v][1]`. -/
  bq1 : Biquad
  /-- `BUF[v]`. -/
  buf : Memory
  deriving DecidableEq, Repr

/-- A voice slot after reset (10_state R46). -/
def Voice.reset (num : Num) : Voice where
  active := false
  psg := false
  held := false
  bqen := false
  mode := .nearest
  gen := 0
  vel := 0
  phase := .idle
  timer := 0
  atk := 0
  dec := 0
  sus := 0
  rel := 0
  endTick := 0xFFFFFFFF
  vol := num.s0
  lfoCnt := 0
  lfoDly := 0
  lfoOut := 0
  blRd := 0
  blAcc := num.s0
  blLast := num.s0
  vout := num.s0
  vgl := num.s1
  vgr := num.s1
  bq0 := Biquad.reset num
  bq1 := Biquad.reset num
  buf := []

/-- The machine.  The registers computed from others (`ID`, `CFG_*`, `ACTIVE`, `fault_o`) are no fields. -/
structure State where
  /-- `CFG` (00_scope R6, R7): fixed for the life of the block; no step writes it (log 1). -/
  cfg : Cfg
  /-- `ERR[4:0]` (10_state R25); bits [7:5] read 0. -/
  err : BitVec 5
  /-- `ERRV` (10_state R26). -/
  errv : BitVec 16
  /-- `ERRW` (10_state R26). -/
  errw : BitVec 32
  /-- `TICKCNT` (10_state R27). -/
  tickcnt : BitVec 32
  /-- `ALLOC` (10_state R28). -/
  alloc : Slot
  /-- `LASTSLOT` (10_state R28). -/
  lastslot : Slot
  /-- `LFO_TYPE` (10_state R29). -/
  lfoType : LfoType
  /-- `LFO_DEPTH` (10_state R29). -/
  lfoDepth : BitVec 8
  /-- `LFO_RANGE` (10_state R29). -/
  lfoRange : BitVec 8
  /-- `LFO_SPEED` (10_state R29). -/
  lfoSpeed : BitVec 8
  /-- `LFO_DELAY` (10_state R29). -/
  lfoDelay : BitVec 16
  /-- `MGL` (10_state R30). -/
  mgl : Sample
  /-- `MGR` (10_state R30). -/
  mgr : Sample
  /-- `OUTL` (10_state R30). -/
  outl : Sample
  /-- `OUTR` (10_state R30). -/
  outr : Sample
  /-- The sixteen voice slots (10_state section 3), `BUF` among their contents. -/
  voices : Vector Voice 16
  /-- `RDATA` (10_state R45). -/
  rdata : Data
  /-- The commands the host presents from here on, the next one first (00_scope R16, R18; log 2). -/
  cmds : List Command
  /-- The position in the host's command list (10_state R21); no command reads or changes it. -/
  pos : Nat
  /-- The MODEL'S OWN field: a counter the step reads and advances, which numbers the free values of a
  command (log 4, log 5). -/
  fresh : Nat
  deriving DecidableEq, Repr

/-- Why the model stops with a fault.  The faults of the spec are none of these: they are recorded in
`ERR` and the machine goes on (60_exceptions R243; log 8). -/
inductive Fault where
  /-- Raised by `BREAD` and `FRAME` where `BL_RD` is not below `BUFSZ`, and by `BSTEP` and `RDK` where
  `KBANK` does not hold the kernel or the tap asked for: an access to an address that 20_memory R60 says
  does not exist.  No state that keeps `State.Inv` raises it (R66).  Safe (log 11). -/
  | noSuchWord
  deriving DecidableEq, Repr

/-- Why the model gives an instruction no meaning.  The refusal of 60_exceptions R246 is not one of
these: it is a next state in which nothing changed (log 8). -/
inductive Refusal where
  /-- Raised by `exec` for a constructor that has no meaning yet; none is left.  Safe. -/
  | notModelled (mnemonic : String)
  deriving DecidableEq, Repr

/-- The machine right after reset under a configuration (10_state R46, 70_reset_and_hazards R270, R271). -/
def State.resetOf (c : Cfg) : State where
  cfg := c
  err := if malformed c then 1 else 0
  errv := 0
  errw := 0
  tickcnt := 0
  alloc := 0
  lastslot := 0
  lfoType := .pitch
  lfoDepth := 0
  lfoRange := 0
  lfoSpeed := 0
  lfoDelay := 0
  mgl := c.num.s1
  mgr := c.num.s1
  outl := c.num.s0
  outr := c.num.s0
  voices := Vector.replicate 16 (Voice.reset c.num)
  rdata := 0
  cmds := []
  pos := 0
  fresh := 0

/-- The machine right after reset, under the configuration of log 1. -/
def State.reset : State := State.resetOf resetCfg

end Sys2Proof.Machine
end

