-- ==== Sys2Proof/Machine/Flags.lean ====
section
/-! DEFINITION. The flag-like state of OP-BLR (10_state R22): the fault bits of `ERR`, the packed
`V_FLAGS` and `ACTIVE`, and the output `fault_o`.  There are no arithmetic condition codes. -/

namespace Sys2Proof.Machine

/-- The fault codes (60_exceptions R241). -/
inductive FaultCode where
  | kcfg | illegal | operand | mode | range
  deriving DecidableEq, Repr

/-- A code is the number of its bit in `ERR` (60_exceptions R241). -/
def FaultCode.num : FaultCode → Nat
  | .kcfg => 0
  | .illegal => 1
  | .operand => 2
  | .mode => 3
  | .range => 4

/-- `ERR` with the bit of a code set (60_exceptions R243). -/
def errSet (err : BitVec 5) (c : FaultCode) : BitVec 5 := err ||| (1#5 <<< c.num)

/-- `ERRV` with the bit of a voice set (60_exceptions R243). -/
def errvSet (errv : BitVec 16) (v : Slot) : BitVec 16 := errv ||| (1#16 <<< v.toNat)

/-- `ERR[0]`, the fatal configuration state (60_exceptions R246). -/
def State.kcfg (s : State) : Bool := s.err.getLsbD 0

/-- `ERR[4:1] = 0`: no command has faulted since reset (60_exceptions R243). -/
def State.noCommandFault (s : State) : Bool := s.err.extractLsb' 1 4 == 0

/-- The output `fault_o` (10_state R25). -/
def State.faultO (s : State) : Bool := s.err != 0

/-! ## Numbers of the enumerated fields -/

/-- 10_state R31. -/
def Mode.num : Mode → BitVec 2
  | .nearest => 0
  | .cubic => 1
  | .blstep => 2

/-- The mode a `NOTEON` field selects; 3 selects none (10_state R31, 40_envelope R111). -/
def Mode.ofField (m : BitVec 2) : Option Mode :=
  match m.toNat with
  | 0 => some .nearest
  | 1 => some .cubic
  | 2 => some .blstep
  | _ => none

/-- 10_state R34. -/
def Phase.num : Phase → BitVec 3
  | .idle => 0
  | .attack => 1
  | .decay => 2
  | .sustain => 3
  | .release => 4

/-- 10_state R29. -/
def LfoType.num : LfoType → BitVec 2
  | .pitch => 0
  | .volume => 1
  | .pan => 2

/-- The type an `LFOCFG` field selects; 3 selects none (44_lfo R191). -/
def LfoType.ofField (t : BitVec 2) : Option LfoType :=
  match t.toNat with
  | 0 => some .pitch
  | 1 => some .volume
  | 2 => some .pan
  | _ => none

/-! ## Packed views -/

/-- `V_FLAGS` as it reads: `mode`, `bqen`, `held`, `psg`, `active` from bit 5 down (46_system R231). -/
def Voice.flags (x : Voice) : BitVec 6 :=
  (x.mode.num ++ BitVec.ofBool x.bqen ++ BitVec.ofBool x.held ++ BitVec.ofBool x.psg ++
    BitVec.ofBool x.active).setWidth 6

/-- `ACTIVE`: bit `v` is `V[v].active` (10_state R28). -/
def State.activeMask (s : State) : BitVec 16 :=
  BitVec.ofBoolListLE (s.voices.toList.map (·.active)) |>.setWidth 16

end Sys2Proof.Machine
end

