-- ==== Sys2Proof/Machine/Ops.lean ====
section
/-! DEFINITION. The named operations of OP-BLR: buffer memory (20_memory R12, R60, R61), the voice file
(00_scope R11), the read-data register (10_state R45), and taking a fault (60_exceptions R243) with the
refusal state (R246). -/

namespace Sys2Proof.Machine

/-- The outcome of a command. -/
abbrev Out := Host.Outcome State Fault Refusal

/-! ## Buffer memory

The operations take `S0` of the configuration's `NUM`, the contents of a slot that is not listed. -/

/-- `MemRead(BUF, (v, j))` on the buffer of a voice: what the last write left, or `S0` (20_memory R70). -/
def Memory.read (zero : Sample) : Memory → Nat → Sample
  | [], _ => zero
  | (a, x) :: rest, j => if a = j then x else Memory.read zero rest j

/-- A cell, unless it holds what an unlisted slot reads as. -/
def Memory.cons (zero : Sample) (j : Nat) (x : Sample) (m : Memory) : Memory :=
  if x = zero then m else (j, x) :: m

/-- `MemWrite(BUF, (v, j), x)` on the buffer of a voice, keeping the canonical form. -/
def Memory.write (zero : Sample) : Memory → Nat → Sample → Memory
  | [], j, x => Memory.cons zero j x []
  | (a, y) :: rest, j, x =>
    if j < a then Memory.cons zero j x ((a, y) :: rest)
    else if j = a then Memory.cons zero j x rest
    else (a, y) :: Memory.write zero rest j x

/-- The canonical form: every index is at least `low`, indexes strictly rise, no cell holds `S0`. -/
def Memory.wfFrom (zero : Sample) : Nat → Memory → Bool
  | _, [] => true
  | low, (a, x) :: rest => low ≤ a && x != zero && Memory.wfFrom zero (a + 1) rest

/-- The canonical form of a buffer. -/
def Memory.wf (zero : Sample) (m : Memory) : Bool := Memory.wfFrom zero 0 m

/-- Every listed slot is one of the `bufsz` that exist (20_memory R60). -/
def Memory.inBounds (bufsz : Nat) (m : Memory) : Bool := m.all fun cell => cell.1 < bufsz

/-! ## The voice file -/

/-- The slots in ascending order, as `TICK`, `MIX` and `FRAME` visit them. -/
def slots : List Slot := [0, 1, 2, 3, 4, 5, 6, 7, 8, 9, 10, 11, 12, 13, 14, 15]

/-- `V[v]` (00_scope R11). -/
def State.voice (s : State) (v : Slot) : Voice := s.voices[v.toNat]'(v.isLt)

/-- `V[v] <- x` (00_scope R11). -/
def State.setVoice (s : State) (v : Slot) (x : Voice) : State :=
  { s with voices := s.voices.set v.toNat x v.isLt }

/-- `for v in 0, 1, ..., 15 (ascending): V[v] <- f v V[v]`. -/
def State.mapVoices (s : State) (f : Slot → Voice → Voice) : State :=
  slots.foldl (fun t v => t.setVoice v (f v (t.voice v))) s

/-! ## The port -/

/-- `RDATA <- d` (10_state R45). -/
def State.setRdata (s : State) (d : Data) : State := { s with rdata := d }

/-- The command the host presents next (00_scope R18). -/
def State.command? (s : State) : Option Command := s.cmds.head?

/-- The machine with its next command taken from the port: the position in the list advances by exactly
1 whatever the command's outcome (10_state R21), and the free values are new ones (log 4). -/
def State.consume (s : State) : State :=
  { s with cmds := s.cmds.tail, pos := s.pos + 1, fresh := s.fresh + 1 }

/-- The site of a command's free values. -/
def State.site (s : State) : Site := [s.fresh]

/-! ## Faults

TAKING A FAULT is this one operation; there is no handler, no saved state and no return from a fault
(60_exceptions R243, R249). -/

/-- What a fault with code `c`, on voice `v` where R241 records one, leaves: `ERR[c]`, `ERRV[v]`, and
`ERRW` if no command had faulted before; nothing else (60_exceptions R243). -/
def State.takeFault (s : State) (c : FaultCode) (v : Option Slot) (w : Word) : State :=
  { s with
    err := errSet s.err c
    errv := match v with
      | some v => errvSet s.errv v
      | none => s.errv
    errw := if s.noCommandFault then w else s.errw }

/-- `raise Fault(c)` or `raise Fault(c, v)` by the command `i` (00_scope R13).  `ERRW` takes the command
word, which is `i`'s encoding: every bit of `W` is a fixed bit or an operand of `i` (log 16). -/
def raise (c : FaultCode) (v : Option Slot) (i : Instr) (s : State) : Out :=
  .next (s.takeFault c v i.word)

/-- A word that no row of the table selects faults `ILLEGAL`, whatever else holds (30_encoding R85 a, b;
60_exceptions R246, R248 step 1). -/
def illegalWord (w : Word) (s : State) : Out := .next (s.takeFault .illegal none w)

/-- The refusal state: while `ERR[0]` is set a command that is checked here has no effect at all
(60_exceptions R246, R248 step 2). -/
def unlessKcfg (s : State) (run : Out) : Out := if s.kcfg then .next s else run

end Sys2Proof.Machine
end

