-- ==== Sys2Proof/Machine/Operands.lean ====
section
/-! DEFINITION. The operand forms of OP-BLR: register numbers and what reading one yields (10_state R24
to R44, 46_system R231), ROM tables and their indices (R234), the coefficient selector (43_biquad R181),
and the s24 operand `sus` (30_encoding R82). -/

namespace Sys2Proof.Machine

/-! ## Registers by number -/

/-- The global registers (10_state section 2). -/
inductive GlobalReg where
  | id | cfgKs | cfgBufsz | cfgFr | cfgDbmin
  | err | errv | tickcnt | alloc | lastslot | active | errw
  | lfoType | lfoDepth | lfoRange | lfoSpeed | lfoDelay
  | mgl | mgr | outl | outr
  deriving DecidableEq, Repr

/-- The per-voice registers (10_state section 3). -/
inductive VoiceReg where
  | flags | gen | vel | phase | timer | atk | dec | sus | rel | endTick | vol
  | lfoCnt | lfoDly | lfoOut
  | blRd | blAcc | blLast | vout | vgl | vgr
  | coef0 (k : Fin 5) | coef1 (k : Fin 5)
  | state0 (j : Fin 4) | state1 (j : Fin 4)
  deriving DecidableEq, Repr

/-- The global register with a number, if there is one (10_state R44). -/
def GlobalReg.ofNum (r : BitVec 8) : Option GlobalReg :=
  match r.toNat with
  | 0x00 => some .id
  | 0x01 => some .cfgKs
  | 0x02 => some .cfgBufsz
  | 0x03 => some .cfgFr
  | 0x04 => some .cfgDbmin
  | 0x08 => some .err
  | 0x09 => some .errv
  | 0x0A => some .tickcnt
  | 0x0B => some .alloc
  | 0x0C => some .lastslot
  | 0x0D => some .active
  | 0x0E => some .errw
  | 0x10 => some .lfoType
  | 0x11 => some .lfoDepth
  | 0x12 => some .lfoRange
  | 0x13 => some .lfoSpeed
  | 0x14 => some .lfoDelay
  | 0x18 => some .mgl
  | 0x19 => some .mgr
  | 0x1A => some .outl
  | 0x1B => some .outr
  | _ => none

/-- The per-voice register with a number, if there is one (10_state R44). -/
def VoiceReg.ofNum (r : BitVec 8) : Option VoiceReg :=
  match r.toNat with
  | 0x40 => some .flags
  | 0x41 => some .gen
  | 0x42 => some .vel
  | 0x43 => some .phase
  | 0x44 => some .timer
  | 0x45 => some .atk
  | 0x46 => some .dec
  | 0x47 => some .sus
  | 0x48 => some .rel
  | 0x49 => some .endTick
  | 0x4A => some .vol
  | 0x50 => some .lfoCnt
  | 0x51 => some .lfoDly
  | 0x52 => some .lfoOut
  | 0x58 => some .blRd
  | 0x59 => some .blAcc
  | 0x5A => some .blLast
  | 0x5B => some .vout
  | 0x5C => some .vgl
  | 0x5D => some .vgr
  | 0x60 => some (.coef0 0)
  | 0x61 => some (.coef0 1)
  | 0x62 => some (.coef0 2)
  | 0x63 => some (.coef0 3)
  | 0x64 => some (.coef0 4)
  | 0x65 => some (.coef1 0)
  | 0x66 => some (.coef1 1)
  | 0x67 => some (.coef1 2)
  | 0x68 => some (.coef1 3)
  | 0x69 => some (.coef1 4)
  | 0x70 => some (.state0 0)
  | 0x71 => some (.state0 1)
  | 0x72 => some (.state0 2)
  | 0x73 => some (.state0 3)
  | 0x74 => some (.state1 0)
  | 0x75 => some (.state1 1)
  | 0x76 => some (.state1 2)
  | 0x77 => some (.state1 3)
  | _ => none

/-- Coefficient `k` of a section: 0 `B0`, 1 `B1`, 2 `B2`, 3 `A1`, 4 `A2` (10_state R42). -/
def Biquad.coef (q : Biquad) (k : Fin 5) : Sample :=
  match k with
  | 0 => q.b0
  | 1 => q.b1
  | 2 => q.b2
  | 3 => q.a1
  | 4 => q.a2

/-- State value `j` of a section: 0 `X1`, 1 `X2`, 2 `Y1`, 3 `Y2` (10_state R43). -/
def Biquad.hist (q : Biquad) (j : Fin 4) : Sample :=
  match j with
  | 0 => q.x1
  | 1 => q.x2
  | 2 => q.y1
  | 3 => q.y2

/-- `CFG_KS` (10_state R24): `KS` in [15:0], `NP` in [23:16], `NORM` 24, `MP` 25, `NSTAGE` in [29:28].
What [15:0] holds for a `KS` that is no u16 is free (log 9). -/
def cfgKsWord (c : Cfg) : BitVec 64 :=
  let ks : BitVec 16 := 
    if (nTaps c : Rat) = c.ks ∧ nTaps c < 2 ^ 16 then BitVec.ofNat 16 (nTaps c) else Config.freeKsField c.ks
  (BitVec.ofNat 2 nstage ++ 0#2 ++ BitVec.ofBool c.mp ++ BitVec.ofBool c.norm ++
    BitVec.ofNat 8 np ++ ks).setWidth 64

/-- `CFG_BUFSZ` (10_state R24); free for a `BUFSZ` that is no u64 (log 9). -/
def cfgBufszWord (c : Cfg) : BitVec 64 :=
  if (nSlots c : Rat) = c.bufsz ∧ nSlots c < 2 ^ 64 then BitVec.ofNat 64 (nSlots c)
  else Config.freeBufszField c.bufsz

/-- A global register as `RDREG` returns it (46_system R231): unsigned values zero-extended, the signed
`CFG_DBMIN` sign-extended, Samples as their bits. -/
def State.readGlobal (s : State) : GlobalReg → Data
  | .id => idValue
  | .cfgKs => cfgKsWord s.cfg
  | .cfgBufsz => cfgBufszWord s.cfg
  | .cfgFr => s.cfg.fr
  | .cfgDbmin => BitVec.ofInt 64 (dbMin s.cfg)
  | .err => s.err.setWidth 64
  | .errv => s.errv.setWidth 64
  | .tickcnt => s.tickcnt.setWidth 64
  | .alloc => s.alloc.setWidth 64
  | .lastslot => s.lastslot.setWidth 64
  | .active => s.activeMask.setWidth 64
  | .errw => s.errw.setWidth 64
  | .lfoType => s.lfoType.num.setWidth 64
  | .lfoDepth => s.lfoDepth.setWidth 64
  | .lfoRange => s.lfoRange.setWidth 64
  | .lfoSpeed => s.lfoSpeed.setWidth 64
  | .lfoDelay => s.lfoDelay.setWidth 64
  | .mgl => s.mgl
  | .mgr => s.mgr
  | .outl => s.outl
  | .outr => s.outr

/-- A per-voice register as `RDREG` returns it (46_system R231): `ENV_TIMER`, `ENV_SUS` and `LFO_OUT`
sign-extended, the other integers zero-extended, Samples as their bits. -/
def Voice.readReg (x : Voice) : VoiceReg → Data
  | .flags => x.flags.setWidth 64
  | .gen => x.gen.setWidth 64
  | .vel => x.vel.setWidth 64
  | .phase => x.phase.num.setWidth 64
  | .timer => x.timer.signExtend 64
  | .atk => x.atk.setWidth 64
  | .dec => x.dec.setWidth 64
  | .sus => x.sus.signExtend 64
  | .rel => x.rel.setWidth 64
  | .endTick => x.endTick.setWidth 64
  | .vol => x.vol
  | .lfoCnt => x.lfoCnt.setWidth 64
  | .lfoDly => x.lfoDly.setWidth 64
  | .lfoOut => x.lfoOut.signExtend 64
  | .blRd => BitVec.ofNat 64 x.blRd
  | .blAcc => x.blAcc
  | .blLast => x.blLast
  | .vout => x.vout
  | .vgl => x.vgl
  | .vgr => x.vgr
  | .coef0 k => x.bq0.coef k
  | .coef1 k => x.bq1.coef k
  | .state0 j => x.bq0.hist j
  | .state1 j => x.bq1.hist j

/-- What `RDREG v, r` reads, if `r` exists and `v` is 0 for a global register (46_system R231). -/
def State.readReg (s : State) (v : Slot) (r : BitVec 8) : Option Data :=
  if r.toNat < 0x40 then
    if v = 0 then (GlobalReg.ofNum r).map s.readGlobal else none
  else (VoiceReg.ofNum r).map (s.voice v).readReg

/-- The voice field of `RDREG` is in use for a per-voice register number (60_exceptions R241). -/
def rdregVoice (v : Slot) (r : BitVec 8) : Option Slot := if r.toNat < 0x40 then none else some v

/-! ## ROM tables and the kernel bank -/

/-- What `RDROM tbl, idx` reads (46_system R234): `DBVEL` sign-extended, `LINDB` and `QSIN`
zero-extended; nothing for `tbl = 3` or an index beyond the table. -/
def readRom (c : Cfg) (tbl : BitVec 2) (idx : BitVec 16) : Option Data :=
  match tbl.toNat with
  | 0 => c.dbvel[idx.toNat]?.map (·.signExtend 64)
  | 1 => c.lindb.val[idx.toNat]?.map (·.setWidth 64)
  | 2 => c.qsin[idx.toNat]?.map (·.setWidth 64)
  | _ => none

/-- The kernel of a phase, if the table holds it with its `KS` taps (41_kernel_bank R140). -/
def kernel (c : Cfg) (ph : BitVec 6) : Option (List Sample) :=
  match c.kbank[ph.toNat]? with
  | some taps => if taps.length = nTaps c then some taps else none
  | none => none

/-! ## Coefficients and the sustain operand -/

/-- A section with coefficient `k` replaced; `k` of 5 to 7 names none (43_biquad R181). -/
def Biquad.setCoef (q : Biquad) (k : BitVec 3) (x : Sample) : Option Biquad :=
  match k.toNat with
  | 0 => some { q with b0 := x }
  | 1 => some { q with b1 := x }
  | 2 => some { q with b2 := x }
  | 3 => some { q with a1 := x }
  | 4 => some { q with a2 := x }
  | _ => none

/-- `BQ[v][stage]`. -/
def Voice.bq (x : Voice) (stage : BitVec 1) : Biquad := if stage = 0 then x.bq0 else x.bq1

/-- `BQ[v][stage] <- q`. -/
def Voice.setBq (x : Voice) (stage : BitVec 1) (q : Biquad) : Voice :=
  if stage = 0 then { x with bq0 := q } else { x with bq1 := q }

/-- `sus` is in `T0..0`, read as s24 (40_envelope R111, 30_encoding R82). -/
def susOk (sus : BitVec 24) : Bool := decide (t0 ≤ sus.toInt) && decide (sus.toInt ≤ 0)

end Sys2Proof.Machine
end

