-- ==== Sys2Proof/Machine/Lfo.lean ====
section
/-! DEFINITION. The LFO unit (44_lfo): `LFOCFG`, and the step `TICK` makes for each active voice. -/

namespace Sys2Proof.Machine

/-- `LFOCFG type, depth, range, speed, delay` (44_lfo R191). -/
def execLfocfg (type : BitVec 2) (depth range speed : BitVec 8) (delay : BitVec 16) (mbz : BitVec 24)
    (s : State) : Out :=
  match LfoType.ofField type with
  | none => raise .illegal none (.lfocfg type depth range speed delay mbz) s
  | some t =>
    unlessKcfg s <|
    if mbz ≠ 0 then raise .operand none (.lfocfg type depth range speed delay mbz) s
    else .next { s with
      lfoType := t
      lfoDepth := depth
      lfoRange := range
      lfoSpeed := speed
      lfoDelay := delay }

/-- `SinIdx(x)` for a coarse phase of 0 to 127 (44_lfo R195). -/
def sinIdx (c : Cfg) (x : BitVec 7) : Int :=
  if h : x.toNat < 32 then ((c.qsin[x.toNat]'(by omega)).toNat : Int)
  else if h : x.toNat < 64 then ((c.qsin[64 - x.toNat]'(by omega)).toNat : Int)
  else if h : x.toNat < 96 then -((c.qsin[x.toNat - 64]'(by omega)).toNat : Int)
  else -((c.qsin[128 - x.toNat]'(by have := x.isLt; omega)).toNat : Int)

/-- The coarse part `LFO_CNT[14:8]` (44_lfo R193). -/
def coarse (cnt : BitVec 15) : BitVec 7 := cnt.extractLsb' 8 7

/-- `scaled >>a 14` of the product scaled by type: x60 for VOLUME, `<< 6` for PITCH and PAN (44_lfo
R196). -/
def lfoScale (t : LfoType) (product : Int) : Int :=
  match t with
  | .volume => (product * 60) / 2 ^ 14
  | .pitch => (product * 2 ^ 6) / 2 ^ 14
  | .pan => (product * 2 ^ 6) / 2 ^ 14

/-- `LfoValue(v)` from the voice's counters (44_lfo R196). -/
def lfoValue (s : State) (x : Voice) : Int :=
  if s.lfoDepth = 0 ∨ x.lfoDly < s.lfoDelay then 0
  else lfoScale s.lfoType
    (sinIdx s.cfg (coarse x.lfoCnt) * (s.lfoDepth.toNat : Int) * (s.lfoRange.toNat : Int))

/-- The counters of a voice after one tick: the delay gate, then the phase (44_lfo R192, R193, R194).
The fifteen-bit sum is the reduction modulo `0x8000`. -/
def lfoAdvance (s : State) (x : Voice) : Voice :=
  if x.lfoDly < s.lfoDelay then { x with lfoDly := x.lfoDly + 1 }
  else { x with lfoCnt := x.lfoCnt + BitVec.ofNat 15 (s.lfoSpeed.toNat * 2 ^ 6) }

/-- `LfoStep(v)` (44_lfo R192): the counters advance first, and the value is that of the new counters. -/
def lfoStep (s : State) (x : Voice) : Voice :=
  let y := lfoAdvance s x
  { y with lfoOut := BitVec.ofInt 32 (lfoValue s y) }

end Sys2Proof.Machine
end

