-- ==== Sys2Proof/Machine/Envelope.lean ====
section
/-! DEFINITION. The ENV unit (40_envelope): the channel volume, the four phases, `NOTEON`, `RELEASE`,
`CUT`, `SETEND` and `TICK`. -/

namespace Sys2Proof.Machine

/-! ## The channel volume (40_envelope R118 to R120) -/

/-- `EnvDb(timer) = timer >>a 7` (40_envelope R119; log 6). -/
def envDb (timer : Int) : Int := timer / 2 ^ 7

/-- `Div(db)` (40_envelope R120; log 6). -/
def attenuation (db : Int) : Int :=
  if -60 ≤ db then 1
  else if -120 ≤ db then 2
  else if -240 ≤ db then 4
  else 16

/-- The decibel index: `DBVEL[vel] + EnvDb(timer)` clamped to `DB_MIN..0` (40_envelope R118). -/
def dbIndex (c : Cfg) (vel : BitVec 7) (timer : Int) : Int :=
  max (dbMin c) (min 0 ((c.dbvel[vel.toNat]'(vel.isLt)).toInt + envDb timer))

/-- `db - DB_MIN` is an index of `LINDB` for every decibel index. -/
theorem dbIndex_inBounds (c : Cfg) (vel : BitVec 7) (timer : Int) :
    (dbIndex c vel timer - dbMin c).toNat < c.lindb.val.length := by
  have := c.lindb.property.1
  unfold dbIndex dbMin nLin
  omega

/-- `LINDB[db - DB_MIN]` (40_envelope R118). -/
def linOf (c : Cfg) (vel : BitVec 7) (timer : Int) : BitVec 8 :=
  c.lindb.val[(dbIndex c vel timer - dbMin c).toNat]'(dbIndex_inBounds c vel timer)

/-- `CalcVol(vel, timer)` (40_envelope R118): two divisions, in the order of the parentheses. -/
def calcVol (c : Cfg) (p : Site) (vel : BitVec 7) (timer : Int) : Sample :=
  c.num.div (1 :: p)
    (c.num.div (0 :: p) (c.num.ofInt ((linOf c vel timer).toNat : Int))
      (c.num.ofInt (attenuation (dbIndex c vel timer))))
    (c.num.ofInt 127)

/-! ## The phases (40_envelope R121 to R124) -/

/-- `ForceCut(s)` on the voice (40_envelope R112). -/
def forceCut (num : Num) (x : Voice) : Voice :=
  { x with active := false, phase := .idle, vol := num.s0 }

/-- `AttackStep(v)` (40_envelope R121). -/
def attackStep (x : Voice) : Voice :=
  let p := (x.atk.toNat : Int) * -x.timer.toInt
  let t := -(p / 2 ^ 8)
  { x with
    timer := BitVec.ofInt 32 t
    phase := if t = 0 then .decay else x.phase }

/-- `DecayStep(v)` (40_envelope R122). -/
def decayStep (x : Voice) : Voice :=
  let t := x.timer.toInt - (x.dec.toNat : Int)
  if t ≤ x.sus.toInt then { x with timer := x.sus, phase := .sustain }
  else { x with timer := BitVec.ofInt 32 t }

/-- `ReleaseStep(v)` (40_envelope R124). -/
def releaseStep (num : Num) (x : Voice) : Voice :=
  let t := x.timer.toInt - (x.rel.toNat : Int)
  if x.psg = true ∨ t ≤ t0 then forceCut num { x with timer := BitVec.ofInt 32 t0 }
  else { x with timer := BitVec.ofInt 32 t }

/-- The end-tick test (40_envelope R117): unsigned, not for held notes, not in RELEASE. -/
def endTickTest (tickcnt : BitVec 32) (x : Voice) : Voice :=
  if x.phase ≠ .release ∧ x.held = false ∧ x.endTick ≤ tickcnt then { x with phase := .release } else x

/-- The one phase action of a tick (40_envelope R117).  `IDLE` has none: the rule's four cases are all
the phases an active voice can be in (log 15). -/
def phaseAction (num : Num) (x : Voice) : Voice :=
  match x.phase with
  | .attack => attackStep x
  | .decay => decayStep x
  | .sustain => x
  | .release => releaseStep num x
  | .idle => x

/-- `EnvStep(v)` (40_envelope R117). -/
def envStep (c : Cfg) (p : Site) (tickcnt : BitVec 32) (x : Voice) : Voice :=
  let y := phaseAction c.num (endTickTest tickcnt x)
  if y.active then { y with vol := calcVol c p y.vel y.timer.toInt } else y

/-! ## The commands -/

/-- The voice a successful `NOTEON` installs in place of `x` (40_envelope R111): a steal first, the slot
back to its reset state but for `V_GEN`, then the note. -/
def newNote (c : Cfg) (p : Site) (vel : BitVec 7) (mode : Mode) (psg held bqen : Bool) (atk : BitVec 8)
    (dec rel : BitVec 16) (sus : BitVec 24) (x : Voice) : Voice :=
  let stolen := if x.active then forceCut c.num x else x
  let timer : Int := if atk = 0 then 0 else t0
  { Voice.reset c.num with
    gen := stolen.gen + 1
    active := true
    psg := psg
    held := held
    bqen := bqen
    mode := mode
    vel := vel
    atk := atk
    dec := dec
    sus := sus.signExtend 32
    rel := rel
    endTick := 0xFFFFFFFF
    phase := .attack
    timer := BitVec.ofInt 32 timer
    vol := calcVol c p vel timer }

/-- `NOTEON vel, mode, flags, atk, dec, sus, rel` (40_envelope R111). -/
def execNoteon (vel : BitVec 7) (mode : BitVec 2) (psg held bqen : Bool) (atk : BitVec 8)
    (dec rel : BitVec 16) (sus : BitVec 24) (s : State) : Out :=
  match Mode.ofField mode with
  | none => raise .illegal none (.noteon vel mode psg held bqen atk dec rel sus) s
  | some m =>
    unlessKcfg s <|
    if susOk sus then
      let v := s.alloc
      let note := newNote s.cfg s.site vel m psg held bqen atk dec rel sus (s.voice v)
      .next { s.setVoice v note with alloc := v + 1, lastslot := v, rdata := v.setWidth 64 }
    else raise .operand none (.noteon vel mode psg held bqen atk dec rel sus) s

/-- `RELEASE v` (40_envelope R113). -/
def execRelease (v : Slot) (s : State) : Out :=
  unlessKcfg s <|
  let x := s.voice v
  if x.active = true ∧ x.phase ≠ .release then .next (s.setVoice v { x with phase := .release })
  else .next s

/-- `CUT v` (40_envelope R114). -/
def execCut (v : Slot) (s : State) : Out :=
  unlessKcfg s <|
  if (s.voice v).active then .next (s.setVoice v (forceCut s.cfg.num (s.voice v))) else .next s

/-- `SETEND v, end` (40_envelope R115). -/
def execSetend (v : Slot) (endTick mbz : BitVec 32) (s : State) : Out :=
  unlessKcfg s <|
  if mbz ≠ 0 then raise .operand (some v) (.setend v endTick mbz) s
  else .next (s.setVoice v { s.voice v with endTick := endTick })

/-- One controller tick of one voice (40_envelope R116). -/
def tickVoice (s : State) (v : Slot) (x : Voice) : Voice :=
  if x.active then
    let y := envStep s.cfg (v.toNat :: s.site) s.tickcnt x
    if y.active then lfoStep s y else y
  else x

/-- `TICK` (40_envelope R116). -/
def execTick (s : State) : Out :=
  unlessKcfg s <| .next { s.mapVoices (tickVoice s) with tickcnt := s.tickcnt + 1 }

end Sys2Proof.Machine
end

