-- ==== Sys2Proof/Machine/Biquad.lean ====
section
/-! DEFINITION. The BQ unit (43_biquad): `BQCOEF`, and the chain `BlRead` runs. -/

namespace Sys2Proof.Machine

/-- `BQCOEF v, stage, k, value` (43_biquad R181). -/
def execBqcoef (v : Slot) (stage : BitVec 1) (k : BitVec 3) (x : Sample) (s : State) : Out :=
  match ((s.voice v).bq stage).setCoef k x with
  | none => raise .illegal none (.bqcoef v stage k x) s
  | some q =>
    unlessKcfg s <|
    if s.cfg.num.finite x then .next (s.setVoice v ((s.voice v).setBq stage q))
    else raise .operand (some v) (.bqcoef v stage k x) s

/-- The output of one section: five products and four sums or differences, each rounded once, in this
order (43_biquad R183). -/
def bqOutput (num : Num) (p : Site) (q : Biquad) (x : Sample) : Sample :=
  num.sub (8 :: p)
    (num.sub (7 :: p)
      (num.add (6 :: p)
        (num.add (5 :: p) (num.mul (0 :: p) q.b0 x) (num.mul (1 :: p) q.b1 q.x1))
        (num.mul (2 :: p) q.b2 q.x2))
      (num.mul (3 :: p) q.a1 q.y1))
    (num.mul (4 :: p) q.a2 q.y2)

/-- `BqStage(v, s, x)` (43_biquad R183): the output, and the section with its histories shifted. -/
def bqStage (num : Num) (p : Site) (q : Biquad) (x : Sample) : Sample × Biquad :=
  let y := bqOutput num p q x
  (y, { q with x2 := q.x1, x1 := x, y2 := q.y1, y1 := y })

/-- `BqChain(v, x)` (43_biquad R182): stage 0, then stage 1 on its output. -/
def bqChain (num : Num) (p : Site) (voice : Voice) (x : Sample) : Sample × Voice :=
  let r0 := bqStage num (0 :: p) voice.bq0 x
  let r1 := bqStage num (1 :: p) voice.bq1 r0.1
  (r1.1, { voice with bq0 := r0.2, bq1 := r1.2 })

end Sys2Proof.Machine
end

