-- ==== Sys2Proof/Machine/Blr.lean ====
section
/-! DEFINITION. The BLR unit (42_blr): `BSTEP`, `BREAD`, `VDIRECT`, and the read-out they share with
`FRAME`. -/

namespace Sys2Proof.Machine

/-- The slot the tap `i` of a kernel lands in: `(BL_RD + off + i) mod BUFSZ` (42_blr R160). -/
def ringSlot (bufsz rd off i : Nat) : Nat := (rd + off + i) % bufsz

/-- The read-modify-writes of R160 for the taps from number `i` on, in ascending order, each one product
rounded and then one sum rounded (42_blr R162). -/
def addTaps (num : Num) (p : Site) (bufsz rd off : Nat) (delta : Sample) : Nat → List Sample → Memory → Memory
  | _, [], m => m
  | i, tap :: taps, m =>
    let j := ringSlot bufsz rd off i
    addTaps num p bufsz rd off delta (i + 1) taps
      (m.write num.s0 j
        (num.add (2 :: i :: p) (m.read num.s0 j) (num.mul (1 :: i :: p) tap delta)))

/-- `delta` of R160: the new value less `BL_LAST`. -/
def stepDelta (num : Num) (p : Site) (voice : Voice) (x : Sample) : Sample :=
  num.sub (0 :: p) x voice.blLast

/-- The voice after a step has been convolved into its buffer (42_blr R160). -/
def insertStep (num : Num) (p : Site) (bufsz off : Nat) (taps : List Sample) (x : Sample) (voice : Voice) : Voice :=
  { voice with
    blLast := x
    buf := addTaps num p bufsz voice.blRd off (stepDelta num p voice x) 0 taps voice.buf }

/-- `BSTEP v, off, ph, value` (42_blr R160, R161). -/
def execBstep (v : Slot) (off : BitVec 10) (ph : BitVec 6) (x : Sample) (s : State) : Out :=
  unlessKcfg s <|
  if s.cfg.num.finite x = false then raise .operand (some v) (.bstep v off ph x) s
  else if (s.voice v).mode ≠ .blstep then raise .mode (some v) (.bstep v off ph x) s
  else if nSlots s.cfg < off.toNat + nTaps s.cfg then raise .range (some v) (.bstep v off ph x) s
  else
    match kernel s.cfg ph with
    | none => .fault .noSuchWord
    | some taps => .next 
        (s.setVoice v (insertStep s.cfg.num s.site (nSlots s.cfg) off.toNat taps x (s.voice v)))

/-- `BL_ACC` after the read-out: the integral with the current slot added (42_blr R165). -/
def integrate (num : Num) (p : Site) (voice : Voice) : Sample :=
  num.add (0 :: p) voice.blAcc (voice.buf.read num.s0 voice.blRd)

/-- The voice after integrate, drain and advance, before the filter (42_blr R165). -/
def drain (num : Num) (p : Site) (bufsz : Nat) (voice : Voice) : Voice :=
  { voice with
    blAcc := integrate num p voice
    buf := voice.buf.write num.s0 voice.blRd num.s0
    blRd := (voice.blRd + 1) % bufsz }

/-- `BlRead(v)` (42_blr R165). -/
def blRead (num : Num) (p : Site) (bufsz : Nat) (voice : Voice) : Voice :=
  let d := drain num p bufsz voice
  if d.bqen then
    let r := bqChain num (1 :: p) d d.blAcc
    { r.2 with vout := r.1 }
  else { d with vout := d.blAcc }

/-- `BL_RD` is the address of a slot that exists (20_memory R60; log 11). -/
def readable (bufsz : Nat) (voice : Voice) : Bool := decide (voice.blRd < bufsz)

/-- `BREAD v` (42_blr R164). -/
def execBread (v : Slot) (s : State) : Out :=
  unlessKcfg s <|
  if (s.voice v).mode ≠ .blstep then raise .mode (some v) (.bread v) s
  else if readable (nSlots s.cfg) (s.voice v) then
    .next (s.setVoice v (blRead s.cfg.num (v.toNat :: 0 :: s.site) (nSlots s.cfg) (s.voice v)))
  else .fault .noSuchWord

/-- `VDIRECT v, value` (42_blr R166). -/
def execVdirect (v : Slot) (x : Sample) (s : State) : Out :=
  unlessKcfg s <|
  if s.cfg.num.finite x = false then raise .operand (some v) (.vdirect v x) s
  else if (s.voice v).mode = .blstep then raise .mode (some v) (.vdirect v x) s
  else .next (s.setVoice v { s.voice v with vout := x })

end Sys2Proof.Machine
end

