-- ==== Sys2Proof/Machine/Mixer.lean ====
section
/-! DEFINITION. The MIX unit (45_mixer): `VGAIN`, `MGAIN`, `MIX`, `FRAME`, and the sum over instances. -/

namespace Sys2Proof.Machine

/-- `VGAIN v, ch, value` (45_mixer R212). -/
def execVgain (v : Slot) (ch : BitVec 1) (x : Sample) (s : State) : Out :=
  unlessKcfg s <|
  if s.cfg.num.finite x = false then raise .operand (some v) (.vgain v ch x) s
  else if ch = 0 then .next (s.setVoice v { s.voice v with vgl := x })
  else .next (s.setVoice v { s.voice v with vgr := x })

/-- `MGAIN ch, value` (45_mixer R213). -/
def execMgain (ch : BitVec 1) (x : Sample) (s : State) : Out :=
  unlessKcfg s <|
  if s.cfg.num.finite x = false then raise .operand none (.mgain ch x) s
  else if ch = 0 then .next { s with mgl := x }
  else .next { s with mgr := x }

/-- One voice's turn in the sum of `MIX`: `sl` and `sr` after it (45_mixer R214). -/
def mixVoice (num : Num) (p : Site) (sum : Sample × Sample) (voice : Voice) : Sample × Sample :=
  if voice.active then
    let t := num.mul (0 :: p) voice.vout voice.vol
    (num.add (3 :: p) sum.1 (num.mul (1 :: p) t voice.vgl),
      num.add (4 :: p) sum.2 (num.mul (2 :: p) t voice.vgr))
  else sum

/-- `sl` and `sr` of `MIX`, summed over the slots in ascending order from `S0` (45_mixer R214). -/
def mixSum (p : Site) (s : State) : Sample × Sample :=
  slots.foldl (fun sum v => mixVoice s.cfg.num (v.toNat :: 0 :: p) sum (s.voice v))
    (s.cfg.num.s0, s.cfg.num.s0)

/-- The pseudocode of `MIX` (45_mixer R214). -/
def mixOutputs (p : Site) (s : State) : State :=
  { s with
    outl := s.cfg.num.mul (0 :: 1 :: p) (mixSum p s).1 s.mgl
    outr := s.cfg.num.mul (1 :: 1 :: p) (mixSum p s).2 s.mgr }

/-- `MIX` (45_mixer R214). -/
def execMix (s : State) : Out := unlessKcfg s <| .next (mixOutputs (1 :: s.site) s)

/-- `FRAME` advances this voice: it is active and in mode BLSTEP (45_mixer R216). -/
def framed (voice : Voice) : Bool := voice.active && voice.mode == .blstep

/-- One voice's turn in the first loop of `FRAME` (45_mixer R216). -/
def frameVoice (s : State) (v : Slot) (voice : Voice) : Voice :=
  if framed voice then blRead s.cfg.num (v.toNat :: 0 :: s.site) (nSlots s.cfg) voice else voice

/-- Every voice `FRAME` advances has a read slot that exists (20_memory R60; log 11). -/
def frameReadable (s : State) : Bool :=
  slots.all fun v => !framed (s.voice v) || readable (nSlots s.cfg) (s.voice v)

/-- `FRAME` (45_mixer R216). -/
def execFrame (s : State) : Out :=
  unlessKcfg s <|
  if frameReadable s then .next (mixOutputs (1 :: s.site) (s.mapVoices (frameVoice s)))
  else .fault .noSuchWord

/-- The final stereo frame of a system of instances, in ascending track order from `S0` (45_mixer R218;
log 19): outside the block, and called by no command. -/
def sumInstances (num : Num) (p : Site) (tracks : List State) : Sample × Sample :=
  (tracks.zipIdx).foldl
    (fun sum (t : State × Nat) =>
      (num.add (0 :: t.2 :: p) sum.1 t.1.outl, num.add (1 :: t.2 :: p) sum.2 t.1.outr))
    (num.s0, num.s0)

end Sys2Proof.Machine
end

