-- ==== Sys2Proof/Machine/System.lean ====
section
/-! DEFINITION. The system commands (46_system): `NOP` and the reads. -/

namespace Sys2Proof.Machine

/-- `NOP`: nothing changes, and it is executed under `KCFG` too (46_system R230). -/
def execNop (s : State) : Out := .next s

/-- `RDREG v, r` (46_system R231), executed under `KCFG` too. -/
def execRdreg (v : Slot) (r : BitVec 8) (s : State) : Out :=
  match s.readReg v r with
  | some d => .next (s.setRdata d)
  | none => raise .operand (rdregVoice v r) (.rdreg v r) s

/-- `RDBUF v, idx` (46_system R232): one slot, by its absolute index, without draining it. -/
def execRdbuf (v : Slot) (idx : BitVec 16) (s : State) : Out :=
  unlessKcfg s <|
  if nSlots s.cfg ≤ idx.toNat then raise .operand (some v) (.rdbuf v idx) s
  else .next (s.setRdata ((s.voice v).buf.read s.cfg.num.s0 idx.toNat))

/-- `RDK ph, tap` (46_system R233). -/
def execRdk (ph : BitVec 6) (tap : BitVec 16) (s : State) : Out :=
  unlessKcfg s <|
  if nTaps s.cfg ≤ tap.toNat then raise .operand none (.rdk ph tap) s
  else
    match (kernel s.cfg ph).bind (·[tap.toNat]?) with
    | some x => .next (s.setRdata x)
    | none => .fault .noSuchWord

/-- `RDROM tbl, idx` (46_system R234), executed under `KCFG` too. -/
def execRdrom (tbl : BitVec 2) (idx : BitVec 16) (s : State) : Out :=
  match readRom s.cfg tbl idx with
  | some d => .next (s.setRdata d)
  | none => raise .operand none (.rdrom tbl idx) s

end Sys2Proof.Machine
end

