-- ==== Sys2Proof/Machine/Dispatch.lean ====
section
/-! DEFINITION. The dispatch from a command to its meaning, one arm per constructor of `Instr`. -/

namespace Sys2Proof.Machine

def exec (i : Instr) (s : State) : Host.Outcome State Fault Refusal :=
  match i with
  | .nop => Sys2Proof.Machine.execNop s
  | .noteon vel mode psg held bqen atk dec rel sus => Sys2Proof.Machine.execNoteon vel mode psg held bqen atk dec rel sus s
  | .release v => Sys2Proof.Machine.execRelease v s
  | .cut v => Sys2Proof.Machine.execCut v s
  | .setend v endTick mbz => Sys2Proof.Machine.execSetend v endTick mbz s
  | .tick => Sys2Proof.Machine.execTick s
  | .bstep v off ph x => Sys2Proof.Machine.execBstep v off ph x s
  | .bread v => Sys2Proof.Machine.execBread v s
  | .vdirect v x => Sys2Proof.Machine.execVdirect v x s
  | .bqcoef v stage k x => Sys2Proof.Machine.execBqcoef v stage k x s
  | .lfocfg type depth range speed delay mbz => Sys2Proof.Machine.execLfocfg type depth range speed delay mbz s
  | .vgain v ch x => Sys2Proof.Machine.execVgain v ch x s
  | .mgain ch x => Sys2Proof.Machine.execMgain ch x s
  | .mix => Sys2Proof.Machine.execMix s
  | .frame => Sys2Proof.Machine.execFrame s
  | .rdreg v r => Sys2Proof.Machine.execRdreg v r s
  | .rdbuf v idx => Sys2Proof.Machine.execRdbuf v idx s
  | .rdk ph tap => Sys2Proof.Machine.execRdk ph tap s
  | .rdrom tbl idx => Sys2Proof.Machine.execRdrom tbl idx s

end Sys2Proof.Machine
end

