-- ==== Sys2Proof/Machine/Step.lean ====
section
/-! DEFINITION. One step: the next command the host presents, taken from the port, decoded, executed
(00_scope R15, R17; log 2, log 8). -/

namespace Sys2Proof.Machine

/-- One command.  With none presented the block is idle and nothing changes (60_exceptions R252,
70_reset_and_hazards R272).  A word no row selects faults `ILLEGAL` (30_encoding R85). -/
def step (s : State) : Host.Outcome State Fault Refusal :=
  match s.command? with
  | none => .next s
  | some c =>
    match decode c with
    | .ok i => exec i s.consume
    | .error _ => illegalWord c.w s.consume

/-- `s` with the command whose table bits are `w` as the next one the host presents (log 2). -/
def State.withFetchWord (s : State) (nbits w : Nat) : State :=
  { s with cmds := tableCommand nbits w :: s.cmds.tail }

end Sys2Proof.Machine
end

