-- ==== Sys2Proof/Safety.lean ====
section
/-! DEFINITION. The terms in which claims about OP-BLR are stated: the invariant of the machine, the
properties of a configuration the spec names, and the fault a command is to report. -/

namespace Sys2Proof.Machine

/-! ## The invariant -/

/-- What holds of every voice slot in every state a run can reach: `ENV_PHASE` is `IDLE` exactly when the
slot is inactive (10_state R34); timer and sustain level are in `T0..0` (R35, R36); `ENV_VOL` is the
current volume, `S0` in a cut or never started slot (R38); the buffer is in canonical form; and under a
well-formed configuration the read index and every listed buffer slot exist (R40, 20_memory R66). -/
abbrev VoiceInv (c : Cfg) (x : Voice) : Prop :=
  (x.phase = .idle ↔ x.active = false) ∧
  (t0 ≤ x.timer.toInt ∧ x.timer.toInt ≤ 0) ∧
  (t0 ≤ x.sus.toInt ∧ x.sus.toInt ≤ 0) ∧
  x.vol = (if x.active then calcVol c [] x.vel x.timer.toInt else c.num.s0) ∧
  x.buf.wf c.num.s0 = true ∧
  (malformed c = false → x.blRd < nSlots c ∧ x.buf.inBounds (nSlots c) = true)

/-- What holds of every state a run can reach: `ERR[0]` is set exactly under a malformed configuration
(70_reset_and_hazards R271), where no output is ever produced (60_exceptions R246), and every voice slot
keeps `VoiceInv`. -/
abbrev State.Inv (s : State) : Prop :=
  s.kcfg = malformed s.cfg ∧
  (malformed s.cfg = true → s.outl = s.cfg.num.s0 ∧ s.outr = s.cfg.num.s0) ∧
  ∀ v : Slot, VoiceInv s.cfg (s.voice v)

/-- The block executes every command: `ERR[0]` is clear (60_exceptions R246). -/
abbrev State.Ready (s : State) : Prop := s.kcfg = false

/-- No fault recorded: the premise claims about a run take (60_exceptions R244). -/
abbrev State.NoFaultRecorded (s : State) : Prop := s.err = 0

/-! ## Frames -/

/-- Between two states nothing differs but the voice slot `v`, its buffer included. -/
abbrev OnlyVoiceChanged (v : Slot) (s t : State) : Prop :=
  t = { s with voices := t.voices } ∧ ∀ u : Slot, u ≠ v → t.voice u = s.voice u

/-- The command ends with fault `c`, recorded with voice `v`, and with no other effect (60_exceptions
R243). -/
abbrev EndsInFault (c : FaultCode) (v : Option Slot) (i : Instr) (s : State) : Prop :=
  exec i s = .next (s.takeFault c v i.word)

/-- The end-tick test of 40_envelope R117 would release the note. -/
abbrev EndTickPassed (s : State) (x : Voice) : Prop :=
  x.held = false ∧ x.endTick.toNat ≤ s.tickcnt.toNat

/-! ## Properties of a configuration, and of numerics -/

/-- `KB_SHAPE` (41_kernel_bank R141). -/
abbrev KbShape (c : Cfg) : Prop := kbankOk c = true

/-- `KB_NORM` (41_kernel_bank R142), in exact arithmetic: under `NORM`, the taps of every phase kernel
sum to 1 within `1e-9`.  What a Sample counts for is an argument, since `NUM` is open: under the default,
`F64.value`. -/
abbrev KbNorm (value : Sample → ℚ) (c : Cfg) : Prop :=
  c.norm = true → ∀ taps ∈ c.kbank, |(taps.map value).sum - 1| ≤ 1 / 10 ^ 9

/-- The number a finite binary64 pattern stands for. -/
def F64.value (x : Sample) : ℚ := (F64.scaled x : ℚ) / F64.unit

/-- The exact values from this size on, in units of `2^-1074`, round to an infinity: the largest finite
value and half a unit of its last place. -/
def F64.overflow : Nat := (2 ^ 54 - 1) * 2 ^ 2044

/-- `r` is `num / den` units of `2^-1074`, correctly rounded to nearest, ties to even (00_scope R10):
below the overflow threshold it is finite, no finite value is nearer, and its last bit is 0 where another
value is as near; from the threshold on it is the infinity of the sign. -/
abbrev F64.CorrectlyRounded (num : Int) (den : Nat) (r : Sample) : Prop :=
  let error := fun z : Sample => (F64.scaled z * den - num).natAbs
  (num.natAbs < F64.overflow * den →
    F64.finite r = true ∧
    ∀ z : Sample, F64.finite z = true →
      error r ≤ error z ∧ (error r = error z → F64.scaled r ≠ F64.scaled z → r.getLsbD 0 = false)) ∧
  (F64.overflow * den ≤ num.natAbs → r = F64.inf (decide (num < 0)))

/-- `KB_KEY` (41_kernel_bank R143): two configurations with the same four parameters have the same bank. -/
abbrev KbKey (c c' : Cfg) : Prop :=
  c.ks = c'.ks → c.norm = c'.norm → c.fr = c'.fr → c.mp = c'.mp → c.kbank = c'.kbank

/-- `LINDB[db - DB_MIN]` for a decibel index. -/
def linAt (c : Cfg) (db : Int) : Nat := (c.lindb.val.getD (db - dbMin c).toNat 0).toNat

/-- `ROM_MONOTONE` (40_envelope R125): `G(db) = LINDB[db - DB_MIN] / Div(db)` is non-decreasing over
`DB_MIN..0`.  A named hypothesis on the ROM contents, never assumed silently. -/
def RomMonotone (c : Cfg) : Prop :=
  ∀ a b : Int, dbMin c ≤ a → a ≤ b → b ≤ 0 →
    (linAt c a : Int) * attenuation b ≤ (linAt c b : Int) * attenuation a

/-! ## The fault a command is to report -/

/-- The voice field that is in use: every format V, T, C command, `VGAIN`, `RDBUF`, and `RDREG` of a
per-voice register (60_exceptions R241). -/
def voiceField : Instr → Option Slot
  | .release v => some v
  | .cut v => some v
  | .setend v _ _ => some v
  | .bstep v _ _ _ => some v
  | .bread v => some v
  | .vdirect v _ => some v
  | .bqcoef v _ _ _ => some v
  | .vgain v _ _ => some v
  | .rdbuf v _ => some v
  | .rdreg v r => if r.toNat < 0x40 then none else some v
  | .nop => none
  | .noteon _ _ _ _ _ _ _ _ _ => none
  | .tick => none
  | .lfocfg _ _ _ _ _ _ => none
  | .mgain _ _ => none
  | .mix => none
  | .frame => none
  | .rdk _ _ => none
  | .rdrom _ _ => none

/-- The three commands executed even while `ERR[0]` is set (60_exceptions R246). -/
def runsUnderKcfg : Instr → Bool
  | .nop => true
  | .rdreg _ _ => true
  | .rdrom _ _ => true
  | _ => false

/-- The register numbers of 10_state R44, as its ranges. -/
def registerExists (r : Nat) : Bool :=
  r ≤ 0x04 || (0x08 ≤ r && r ≤ 0x0E) || (0x10 ≤ r && r ≤ 0x14) || (0x18 ≤ r && r ≤ 0x1B) ||
  (0x40 ≤ r && r ≤ 0x4A) || (0x50 ≤ r && r ≤ 0x52) || (0x58 ≤ r && r ≤ 0x5D) ||
  (0x60 ≤ r && r ≤ 0x69) || (0x70 ≤ r && r ≤ 0x77)

/-- The size of a ROM table: 128, `N_LIN`, 36; there is no table 3 (46_system R234). -/
def romSize (c : Cfg) (tbl : BitVec 2) : Nat :=
  if tbl = 0 then 128 else if tbl = 1 then nLin c else if tbl = 2 then 36 else 0

/-- An `OPERAND` cause of 60_exceptions R241 holds. -/
def operandBad (s : State) : Instr → Bool
  | .bstep _ _ _ x => !s.cfg.num.finite x
  | .vdirect _ x => !s.cfg.num.finite x
  | .bqcoef _ _ _ x => !s.cfg.num.finite x
  | .vgain _ _ x => !s.cfg.num.finite x
  | .mgain _ x => !s.cfg.num.finite x
  | .noteon _ _ _ _ _ _ _ _ sus => decide (sus.toInt < t0) || decide (0 < sus.toInt)
  | .setend _ _ mbz => mbz != 0
  | .lfocfg _ _ _ _ _ mbz => mbz != 0
  | .rdreg v r => !registerExists r.toNat || (decide (r.toNat < 0x40) && v != 0)
  | .rdbuf _ idx => decide (nSlots s.cfg ≤ idx.toNat)
  | .rdk _ tap => decide (nTaps s.cfg ≤ tap.toNat)
  | .rdrom tbl idx => tbl == 3 || decide (romSize s.cfg tbl ≤ idx.toNat)
  | _ => false

/-- A `MODE` cause of 60_exceptions R241 holds. -/
def modeBad (s : State) : Instr → Bool
  | .bstep v _ _ _ => (s.voice v).mode != .blstep
  | .bread v => (s.voice v).mode != .blstep
  | .vdirect v _ => (s.voice v).mode == .blstep
  | _ => false

/-- The `RANGE` cause of 60_exceptions R241 holds. -/
def rangeBad (s : State) : Instr → Bool
  | .bstep _ off _ _ => decide (nSlots s.cfg < off.toNat + nTaps s.cfg)
  | _ => false

/-- What a command reports, by the fixed order of 60_exceptions R248: the code of the first failing
check and the voice recorded with it (R241), or nothing. -/
def expectedFault (s : State) (i : Instr) : Option (FaultCode × Option Slot) :=
  if i.wellFormed = false then some (.illegal, none)
  else if s.kcfg && !runsUnderKcfg i then none
  else if operandBad s i then some (.operand, voiceField i)
  else if modeBad s i then some (.mode, voiceField i)
  else if rangeBad s i then some (.range, voiceField i)
  else none

end Sys2Proof.Machine
end

