-- ==== Sys2Proof/Certificates/Slice0/Obligations.lean ====
section
/-! DEFINITION. The statements about OP-BLR, for the provers.  Each holds for every configuration, since a
state carries its own, and for every free value.  `nTaps` and `nSlots` are `KS` and `BUFSZ` as counts: equal
to them but where the configuration is malformed and every command that looks at them refused (log 12). -/

open Sys2Proof Sys2Proof.Machine

/-! ## Encoding -/

/-- 30_encoding section 1 to 3: decoding the encoding of any command, with any operands, gives it back. -/
def Obligations.EncodeDecodesBack : Prop :=
  ∀ i : Instr, decode (encode i) = .ok i

/-- 30_encoding R80, R82: the decoded command holds all of `W`, and all of `D` where it is one of the
eight commands that use `D`; the others ignore `D`. -/
def Obligations.DecodedCommandReencodes : Prop :=
  ∀ (c : Command) (i : Instr), decode c = .ok i →
    i.word = c.w ∧
    (i.op ∈ [Op.noteon, .setend, .bstep, .vdirect, .bqcoef, .lfocfg, .vgain, .mgain] → i.data = c.d) ∧
    (i.op ∉ [Op.noteon, .setend, .bstep, .vdirect, .bqcoef, .lfocfg, .vgain, .mgain] →
      ∀ d, decode ⟨c.w, d⟩ = .ok i)

/-- 30_encoding R84: decoding is total; a word that a row selects decodes to a command of that row, and a
word that none selects is illegal. -/
def Obligations.DecodeFollowsTheTable : Prop :=
  (∀ c : Command, ∀ r ∈ opTable, r.selects c.w = true →
    ∃ i, decode c = .ok i ∧ i.op.row = r) ∧
  (∀ c : Command, (∀ r ∈ opTable, r.selects c.w = false) →
    (∃ e, decode c = .error e) ∧
    ∀ (s : State) (rest : List Command), s.cmds = c :: rest →
      step s = .next (s.consume.takeFault .illegal none c.w))

/-- 30_encoding R85: the three classes of illegal encodings, (a) an unassigned opcode, (b) a must-be-0 bit
set, (c) a reserved field value, raise `Fault(ILLEGAL)` and change nothing else; the opcode values not
assigned are 0x06, 0x07, 0x0B, 0x0D to 0x0F, 0x11 to 0x13, 0x18 to 0x1F and 0x24 to 0xFF. -/
def Obligations.IllegalEncodingsFault : Prop :=
  (∀ (s : State) (c : Command) (rest : List Command), s.cmds = c :: rest →
    (∀ r ∈ opTable, (field r.pattern 24 8 : BitVec 8) ≠ field c.w 24 8) ∨
    (∃ r ∈ opTable, (field r.pattern 24 8 : BitVec 8) = field c.w 24 8 ∧ r.selects c.w = false) ∨
    (field c.w 24 8 = 0x01#8 ∧ field c.w 8 2 = 3#2) ∨
    (field c.w 24 8 = 0x0C#8 ∧ 4 < (field c.w 0 3 : BitVec 3).toNat) ∨
    (field c.w 24 8 = 0x10#8 ∧ field c.w 0 2 = 3#2) →
    step s = .next (s.consume.takeFault .illegal none c.w)) ∧
  (∀ n : BitVec 8, (∀ r ∈ opTable, field r.pattern 24 8 ≠ n) ↔
    (n.toNat ∈ [0x06, 0x07, 0x0B, 0x0D, 0x0E, 0x0F, 0x11, 0x12, 0x13] ∨
      (0x18 ≤ n.toNat ∧ n.toNat ≤ 0x1F) ∨ 0x24 ≤ n.toNat))

/-- 95_test_vectors section 3.1: words written out from the encoding tables, one per family at least. -/
def Obligations.SpecWordsDecode : Prop :=
  decode ⟨0x00000000, 0⟩ = .ok .nop ∧
  decode ⟨0x0100027F, 0xFFF4480032000A80⟩ =
    .ok (.noteon 127 2 false false false 128 10 50 0xFFF448) ∧
  decode ⟨0x01007064, 0xFE9680FFFFFFFF00⟩ =
    .ok (.noteon 100 0 true true true 0 65535 65535 0xFE9680) ∧
  decode ⟨0x0850013F, 0xBFD0000000000000⟩ = .ok (.bstep 5 4 63 0xBFD0000000000000) ∧
  decode ⟨0x0C000013, 0xBFE0000000000000⟩ = .ok (.bqcoef 0 1 3 0xBFE0000000000000) ∧
  decode ⟨0x10000000, 0x0000000002200240⟩ = .ok (.lfocfg 0 64 2 32 2 0) ∧
  decode ⟨0x14300001, 0x3FD0000000000000⟩ = .ok (.vgain 3 1 0x3FD0000000000000) ∧
  decode ⟨0x20F00077, 0⟩ = .ok (.rdreg 15 0x77) ∧
  decode ⟨0x22100002, 0⟩ = .ok (.rdk 16 2)

/-! ## The step, reset and the invariant -/

/-- A presented command that decodes is executed on the machine that has taken it from the port, with the
position advanced by one (10_state R21).  That `fresh` advances by one is the model's choice, log 5, and
that nothing changes with no command presented is its choice, log 2. -/
def Obligations.StepRunsDecodedCommand : Prop :=
  (∀ (s : State) (c : Command) (rest : List Command) (i : Instr),
    s.cmds = c :: rest → decode c = .ok i →
    step s = exec i { s with cmds := rest, pos := s.pos + 1, fresh := s.fresh + 1 }) ∧
  (∀ s : State, s.cmds = [] → step s = .next s)

/-- 10_state R21: the position starts at 0, advances by exactly 1 with every command whatever its
outcome, and no command reads or changes it. -/
def Obligations.PositionAdvancesByOne : Prop :=
  (∀ c : Cfg, (State.resetOf c).pos = 0) ∧
  (∀ s t : State, s.cmds ≠ [] → step s = .next t → t.pos = s.pos + 1 ∧ t.cmds = s.cmds.tail) ∧
  (∀ (i : Instr) (s t : State) (n : Nat), exec i s = .next t →
    t.pos = s.pos ∧ exec i { s with pos := n } = .next { t with pos := n })

/-- 10_state R46: the reset value of every piece of state, under every configuration. -/
def Obligations.ResetValues : Prop :=
  ∀ c : Cfg,
    let s := State.resetOf c
    s.cfg = c ∧ s.err = (if malformed c then 1 else 0) ∧ s.errv = 0 ∧ s.errw = 0 ∧ s.tickcnt = 0 ∧
    s.alloc = 0 ∧ s.lastslot = 0 ∧
    s.lfoType = .pitch ∧ s.lfoDepth = 0 ∧ s.lfoRange = 0 ∧ s.lfoSpeed = 0 ∧ s.lfoDelay = 0 ∧
    s.mgl = c.num.s1 ∧ s.mgr = c.num.s1 ∧ s.outl = c.num.s0 ∧ s.outr = c.num.s0 ∧ s.rdata = 0 ∧
    ∀ v : Slot,
      let x := s.voice v
      x.flags = 0 ∧ x.gen = 0 ∧ x.vel = 0 ∧ x.phase = .idle ∧ x.timer = 0 ∧ x.atk = 0 ∧ x.dec = 0 ∧
      x.sus = 0 ∧ x.rel = 0 ∧ x.endTick = 0xFFFFFFFF ∧ x.vol = c.num.s0 ∧ x.lfoCnt = 0 ∧ x.lfoDly = 0 ∧
      x.lfoOut = 0 ∧ x.blRd = 0 ∧ x.blAcc = c.num.s0 ∧ x.blLast = c.num.s0 ∧ x.vout = c.num.s0 ∧
      x.vgl = c.num.s1 ∧ x.vgr = c.num.s1 ∧
      (∀ k : Fin 5, x.bq0.coef k = (if k = 0 then c.num.s1 else c.num.s0) ∧
        x.bq1.coef k = (if k = 0 then c.num.s1 else c.num.s0)) ∧
      (∀ j : Fin 4, x.bq0.hist j = c.num.s0 ∧ x.bq1.hist j = c.num.s0) ∧
      (∀ j : Nat, x.buf.read c.num.s0 j = c.num.s0)

/-- 70_reset_and_hazards R271: `KCFG` is 1 after reset exactly under a malformed configuration, the
conditions written out from 41_kernel_bank R145, and no step ever sets or clears it.  One of them is the
model's: under a `NUM` other than binary64 `0 < FR <= 1` is the uninterpreted `Config.numInUnit` (log 3,
DESIGN CHOICE). -/
def Obligations.KcfgSetOnlyAtReset : Prop :=
  (∀ c : Cfg,
    let frBad : Prop :=
      match c.num with
      | .binary64 => F64.finite c.fr = false ∨ F64.scaled c.fr ≤ 0 ∨ 2 ^ 1074 < F64.scaled c.fr
      | .other k => Config.numFinite k c.fr = false ∨ Config.numInUnit k c.fr = false
    (State.resetOf c).kcfg = true ↔
      (∀ n : Int, c.ks ≠ n) ∨ c.ks < 2 ∨ (∃ n : Int, c.ks = 2 * n + 1) ∨ c.bufsz < c.ks ∨
      (∀ k : Nat, c.bufsz ≠ 2 ^ k) ∨ 65536 < c.bufsz ∨
      frBad ∨ c.kbank.length ≠ 64 ∨
      ∃ taps ∈ c.kbank, taps.length ≠ c.ks ∨ ∃ x ∈ taps, c.num.finite x = false) ∧
  (∀ s t : State, step s = .next t → t.kcfg = s.kcfg)

/-- The invariant holds after reset, under every configuration. -/
def Obligations.ResetMeetsInvariant : Prop :=
  (∀ c : Cfg, (State.resetOf c).Inv) ∧ State.reset.Inv

/-- Every step keeps the invariant (10_state R34, R35, R38, R40; 20_memory R66; 60_exceptions R246). -/
def Obligations.StepKeepsInvariant : Prop :=
  ∀ s t : State, s.Inv → step s = .next t → t.Inv

/-- 00_scope R17: no stuck state and no hang.  From every state that meets the invariant the machine goes
on for any number of steps, and meets it still. -/
def Obligations.InvariantStatesRunForever : Prop :=
  ∀ (n : Nat) (s : State), s.Inv → ∃ t : State, Host.Core.run Sys2Proof.core n s = .next t ∧ t.Inv

/-- 00_scope R7: `CFG` is fixed for the life of the block. -/
def Obligations.ConfigurationNeverChanges : Prop :=
  ∀ s t : State, step s = .next t → t.cfg = s.cfg

/-! ## Faults and refusal -/

/-- 60_exceptions R243: what a fault leaves, bit by bit, that it leaves everything else, and that `fault_o`
is 1 from then on. -/
def Obligations.FaultEntryIsPrecise : Prop :=
  ∀ (c : FaultCode) (v : Option Slot) (i : Instr) (s : State),
    ∃ t : State, raise c v i s = .next t ∧
      t = { s with err := t.err, errv := t.errv, errw := t.errw } ∧
      (∀ n : Nat, t.err.getLsbD n = (s.err.getLsbD n || decide (n = c.num))) ∧
      (∀ u : Slot, t.errv.getLsbD u.toNat = (s.errv.getLsbD u.toNat || decide (v = some u))) ∧
      t.errw = (if s.err.toNat / 2 = 0 then i.word else s.errw) ∧
      t.faultO = true ∧ ∀ u : State, step t = .next u → u.faultO = true

/-- 60_exceptions R248: the fixed order of the checks, `ILLEGAL`, refusal, `OPERAND`, `MODE`, `RANGE`; the
first failing one is reported, and a command none of whose checks fails reports nothing. -/
def Obligations.FirstFailingCheckIsReported : Prop :=
  ∀ (i : Instr) (s : State),
    (∀ (c : FaultCode) (v : Option Slot), expectedFault s i = some (c, v) → EndsInFault c v i s) ∧
    (∀ t : State, expectedFault s i = none → exec i s = .next t →
      t.err = s.err ∧ t.errv = s.errv ∧ t.errw = s.errw)

/-- 60_exceptions R246: while `KCFG` is set every legal command but `NOP`, `RDREG` and `RDROM` has no
effect at all, an illegal word still faults, and no step ever clears `KCFG` or produces output: `OUTL` and
`OUTR`, which are `S0` after reset, stay what they are. -/
def Obligations.RefusedUnderKcfg : Prop :=
  ∀ s : State, s.kcfg = true →
    (∀ i : Instr, i.wellFormed = true → runsUnderKcfg i = false → exec i s = .next s) ∧
    (∀ i : Instr, i.wellFormed = false → EndsInFault .illegal none i s) ∧
    (∀ t : State, step s = .next t → t.kcfg = true ∧ t.outl = s.outl ∧ t.outr = s.outr) ∧
    (∀ c : Cfg, (State.resetOf c).outl = c.num.s0 ∧ (State.resetOf c).outr = c.num.s0)

/-- 10_state R25, R26: no step clears a bit of `ERR` or `ERRV`, and `ERRW` is written only by a fault
that finds `ERR[4:1] = 0`. -/
def Obligations.ErrorRegistersAreSticky : Prop :=
  ∀ s t : State, step s = .next t →
    (∀ n : Nat, s.err.getLsbD n = true → t.err.getLsbD n = true) ∧
    (∀ n : Nat, s.errv.getLsbD n = true → t.errv.getLsbD n = true) ∧
    (t.errw ≠ s.errw → s.err.toNat / 2 = 0 ∧ t.err.toNat / 2 ≠ 0)

/-! ## The envelope unit -/

/-- 46_system R230. -/
def Obligations.NopChangesNothing : Prop :=
  (∀ s : State, exec .nop s = .next s) ∧
  (∀ (w : Word) (d : Data), decode ⟨w, d⟩ = .ok .nop ↔ w = 0)

/-- 40_envelope R111: the slot taken, what it is left holding, and the two faults. -/
def Obligations.NoteonStartsNote : Prop :=
  ∀ (s : State) (vel : BitVec 7) (mode : BitVec 2) (psg held bqen : Bool) (atk : BitVec 8)
    (dec rel : BitVec 16) (sus : BitVec 24),
    let i : Instr := .noteon vel mode psg held bqen atk dec rel sus
    (s.Ready → mode ≠ 3 → -92544 ≤ sus.toInt → sus.toInt ≤ 0 →
      ∃ t : State, exec i s = .next t ∧
        t = { s with voices := t.voices, alloc := t.alloc, lastslot := t.lastslot, rdata := t.rdata } ∧
        t.alloc.toNat = (s.alloc.toNat + 1) % 16 ∧ t.lastslot = s.alloc ∧
        t.rdata.toNat = s.alloc.toNat ∧
        (∀ u : Slot, u ≠ s.alloc → t.voice u = s.voice u) ∧
        let x := t.voice s.alloc
        x.active = true ∧ x.psg = psg ∧ x.held = held ∧ x.bqen = bqen ∧ x.mode.num = mode ∧
        x.gen.toNat = ((s.voice s.alloc).gen.toNat + 1) % 2 ^ 32 ∧ x.vel = vel ∧
        x.atk = atk ∧ x.dec = dec ∧ x.sus.toInt = sus.toInt ∧ x.rel = rel ∧ x.endTick = 0xFFFFFFFF ∧
        x.phase = .attack ∧ x.timer.toInt = (if atk = 0 then 0 else -92544) ∧
        x.vol = calcVol s.cfg s.site vel x.timer.toInt ∧
        x.lfoCnt = 0 ∧ x.lfoDly = 0 ∧ x.lfoOut = 0 ∧
        x.blRd = 0 ∧ x.blAcc = s.cfg.num.s0 ∧ x.blLast = s.cfg.num.s0 ∧ x.vout = s.cfg.num.s0 ∧
        (∀ j : Nat, x.buf.read s.cfg.num.s0 j = s.cfg.num.s0) ∧
        x.vgl = s.cfg.num.s1 ∧ x.vgr = s.cfg.num.s1 ∧
        (∀ k : Fin 5, x.bq0.coef k = (if k = 0 then s.cfg.num.s1 else s.cfg.num.s0) ∧
          x.bq1.coef k = (if k = 0 then s.cfg.num.s1 else s.cfg.num.s0)) ∧
        (∀ j : Fin 4, x.bq0.hist j = s.cfg.num.s0 ∧ x.bq1.hist j = s.cfg.num.s0)) ∧
    (mode = 3 → EndsInFault .illegal none i s) ∧
    (s.Ready → mode ≠ 3 → sus.toInt < -92544 ∨ 0 < sus.toInt → EndsInFault .operand none i s)

/-- 40_envelope R113. -/
def Obligations.ReleaseOnlyChangesPhase : Prop :=
  ∀ (s : State) (v : Slot), s.Ready →
    ∃ t : State, exec (.release v) s = .next t ∧ OnlyVoiceChanged v s t ∧
      t.voice v = { s.voice v with
        phase := if (s.voice v).active then .release else (s.voice v).phase }

/-- 40_envelope R112, R114: a cut silences an active voice and leaves everything else, the allocation
pointer included; on an inactive voice it does nothing. -/
def Obligations.CutSilencesVoice : Prop :=
  ∀ (s : State) (v : Slot), s.Ready →
    ∃ t : State, exec (.cut v) s = .next t ∧ OnlyVoiceChanged v s t ∧
      t.voice v =
        (if (s.voice v).active then
          { s.voice v with active := false, phase := .idle, vol := s.cfg.num.s0 }
        else s.voice v)

/-- 40_envelope R115. -/
def Obligations.SetendWritesEndTick : Prop :=
  ∀ (s : State) (v : Slot) (endTick mbz : BitVec 32), s.Ready →
    (mbz = 0 → ∃ t : State, exec (.setend v endTick mbz) s = .next t ∧ OnlyVoiceChanged v s t ∧
      t.voice v = { s.voice v with endTick := endTick }) ∧
    (mbz ≠ 0 → EndsInFault .operand (some v) (.setend v endTick mbz) s)

/-- 40_envelope R116: one tick steps every active voice, each from its own state and the count before
the increment, and then the count.  Of a voice only its phase, timer, volume, active flag and LFO counters
can change, so its buffer, filter, gains and note parameters stay. -/
def Obligations.TickStepsActiveVoices : Prop :=
  ∀ s : State, s.Ready →
    ∃ t : State, exec .tick s = .next t ∧
      t = { s with voices := t.voices, tickcnt := t.tickcnt } ∧
      t.tickcnt.toNat = (s.tickcnt.toNat + 1) % 2 ^ 32 ∧
      ∀ v : Slot,
        ((s.voice v).active = false → t.voice v = s.voice v) ∧
        ((s.voice v).active = true →
          let y := envStep s.cfg (v.toNat :: s.site) s.tickcnt (s.voice v)
          t.voice v = if y.active then lfoStep s y else y) ∧
        t.voice v = { s.voice v with
          active := (t.voice v).active, phase := (t.voice v).phase, timer := (t.voice v).timer
          vol := (t.voice v).vol, lfoCnt := (t.voice v).lfoCnt, lfoDly := (t.voice v).lfoDly
          lfoOut := (t.voice v).lfoOut }

/-- 40_envelope R117: the end-tick test, then exactly one phase action, then the volume.  An
active voice is in one of the four phases (`State.Inv`), so the arm of IDLE is never taken. -/
def Obligations.OnePhaseActionPerTick : Prop :=
  ∀ (s : State) (v : Slot), s.Ready → s.Inv → (s.voice v).active = true →
    ∃ t : State, exec .tick s = .next t ∧
      let x := s.voice v
      let x' := if x.phase ≠ .release ∧ EndTickPassed s x then { x with phase := .release } else x
      let y :=
        match x'.phase with
        | .attack => attackStep x'
        | .decay => decayStep x'
        | .sustain => x'
        | .release => releaseStep s.cfg.num x'
        | .idle => x'
      (t.voice v).active = y.active ∧ (t.voice v).phase = y.phase ∧ (t.voice v).timer = y.timer ∧
      (t.voice v).vol =
        (if y.active then calcVol s.cfg (v.toNat :: s.site) x.vel y.timer.toInt else y.vol)

/-- 40_envelope R121: the attack recurrence and the hand-over to DECAY at 0. -/
def Obligations.AttackMovesTimer : Prop :=
  ∀ (s : State) (v : Slot), s.Ready → s.Inv → (s.voice v).active = true →
    (s.voice v).phase = .attack → ¬EndTickPassed s (s.voice v) →
    ∃ t : State, exec .tick s = .next t ∧
      let x := s.voice v
      let y := t.voice v
      y.active = true ∧
      y.timer.toInt = -(((x.atk.toNat : Int) * (-x.timer.toInt)) / 256) ∧
      y.phase = (if y.timer.toInt = 0 then .decay else .attack)

/-- 40_envelope R121, the properties the spec derives from it: Attack never decreases the timer, moves
every timer below 0, reaches 0 within 1653 ticks from everywhere in `T0..0`, and needs all of them at
`ENV_ATK = 255` from `T0`. -/
def Obligations.AttackReachesZero : Prop :=
  (∀ x : Voice, -92544 ≤ x.timer.toInt → x.timer.toInt ≤ 0 →
    let y := attackStep x
    x.timer.toInt ≤ y.timer.toInt ∧ y.timer.toInt ≤ 0 ∧
    (x.timer.toInt < 0 → x.timer.toInt < y.timer.toInt) ∧ (x.atk = 0 → y.timer.toInt = 0) ∧
    ∃ n : Nat, n ≤ 1653 ∧ (attackStep^[n] x).timer.toInt = 0) ∧
  (∀ x : Voice, x.atk = 255 → x.timer.toInt = -92544 →
    (attackStep^[1652] x).timer.toInt ≠ 0 ∧ (attackStep^[1653] x).timer.toInt = 0)

/-- 40_envelope R122. -/
def Obligations.DecayFallsToSustainLevel : Prop :=
  ∀ (s : State) (v : Slot), s.Ready → s.Inv → (s.voice v).active = true →
    (s.voice v).phase = .decay → ¬EndTickPassed s (s.voice v) →
    ∃ t : State, exec .tick s = .next t ∧
      let x := s.voice v
      let y := t.voice v
      let d := x.timer.toInt - (x.dec.toNat : Int)
      y.active = true ∧
      (d ≤ x.sus.toInt → y.timer = x.sus ∧ y.phase = .sustain) ∧
      (x.sus.toInt < d → y.timer.toInt = d ∧ y.phase = .decay)

/-- 40_envelope R123: sustain writes neither timer nor phase, and the volume is recomputed to the same
value; only the end-tick test, `RELEASE`, `CUT` and voice stealing end it. -/
def Obligations.SustainIsConstant : Prop :=
  (∀ (s : State) (v : Slot), s.Ready → s.Inv → (s.voice v).active = true →
    (s.voice v).phase = .sustain → ¬EndTickPassed s (s.voice v) →
    ∃ t : State, exec .tick s = .next t ∧
      (t.voice v).timer = (s.voice v).timer ∧ (t.voice v).phase = .sustain ∧
      (t.voice v).active = true ∧ (t.voice v).vol = (s.voice v).vol) ∧
  (∀ (i : Instr) (s t : State) (v : Slot), exec i s = .next t → (s.voice v).active = true →
    (s.voice v).phase = .sustain → (t.voice v).phase ≠ .sustain →
    (i = .tick ∧ EndTickPassed s (s.voice v)) ∨ i = .release v ∨ i = .cut v ∨
      (i.op = .noteon ∧ v = s.alloc))

/-- 40_envelope R124: a voice in RELEASE, or put there by the end-tick test of this tick, falls by its
release coefficient, and is cut once at `T0` or at once if it is a PSG pulse. -/
def Obligations.ReleaseFallsToCut : Prop :=
  ∀ (s : State) (v : Slot), s.Ready → s.Inv → (s.voice v).active = true →
    (s.voice v).phase = .release ∨ EndTickPassed s (s.voice v) →
    ∃ t : State, exec .tick s = .next t ∧
      let x := s.voice v
      let y := t.voice v
      let d := x.timer.toInt - (x.rel.toNat : Int)
      (x.psg = true ∨ d ≤ -92544 →
        y.active = false ∧ y.phase = .idle ∧ y.timer.toInt = -92544 ∧ y.vol = s.cfg.num.s0 ∧
        y.lfoCnt = x.lfoCnt ∧ y.lfoDly = x.lfoDly ∧ y.lfoOut = x.lfoOut) ∧
      (x.psg = false → -92544 < d →
        y.active = true ∧ y.phase = .release ∧ y.timer.toInt = d)

/-- 40_envelope R118, R119, R120: the volume is the correctly rounded `lin / (div * 127)`, with `lin` read
at the clamped decibel index and `div` by its threshold.  The shift by 7 and the divisor 16 are the
spec's defaults (log 6), and so is binary64 (log 3). -/
def Obligations.VolumeIsCorrectlyRounded : Prop :=
  ∀ (c : Cfg) (p : Site) (vel : BitVec 7) (timer : Int), c.num = .binary64 →
    let db0 := (c.dbvel.toList.getD vel.toNat 0).toInt + Int.fdiv timer 128
    let dbMin : Int := 1 - (c.lindb.val.length : Int)
    let db := max dbMin (min 0 db0)
    let lin := (c.lindb.val.getD (db - dbMin).toNat 0).toNat
    let div : Nat := if db < -240 then 16 else if db < -120 then 4 else if db < -60 then 2 else 1
    calcVol c p vel timer = F64.round false (lin * 2 ^ 1074) (div * 127)

/-- 40_envelope R125: under the named hypothesis `ROM_MONOTONE`, the volume does not fall during Attack,
does not rise during Release, and is constant during Sustain.  It is of the default `NUM`, binary64
(log 3), and rests on the shift by 7 and the divisor 16 (log 6). -/
def Obligations.VolumeIsMonotone : Prop :=
  ∀ (s : State) (v : Slot), s.Ready → s.Inv → s.cfg.num = .binary64 → RomMonotone s.cfg →
    (s.voice v).active = true →
    ∃ t : State, exec .tick s = .next t ∧
      let x := s.voice v
      let y := t.voice v
      (x.phase = .attack → ¬EndTickPassed s x → F64.scaled x.vol ≤ F64.scaled y.vol) ∧
      (x.phase = .release ∨ EndTickPassed s x → x.psg = false →
        F64.scaled y.vol ≤ F64.scaled x.vol) ∧
      (x.phase = .sustain → ¬EndTickPassed s x → y.vol = x.vol)

/-! ## The LFO unit -/

/-- 44_lfo R192, R193, R194: the counters of a voice that is still active after its envelope step, the
gate first, and the value computed from the new counters; the counters of every other voice stay. -/
def Obligations.LfoCountersAdvance : Prop :=
  ∀ (s : State) (v : Slot), s.Ready →
    ∃ t : State, exec .tick s = .next t ∧
      let x := s.voice v
      let y := t.voice v
      (y.active = true →
        (if x.lfoDly.toNat < s.lfoDelay.toNat then
          y.lfoDly.toNat = x.lfoDly.toNat + 1 ∧ y.lfoCnt = x.lfoCnt
        else
          y.lfoDly = x.lfoDly ∧ y.lfoCnt.toNat = (x.lfoCnt.toNat + s.lfoSpeed.toNat * 64) % 0x8000) ∧
        y.lfoOut.toInt = lfoValue s y) ∧
      (y.active = false → y.lfoDly = x.lfoDly ∧ y.lfoCnt = x.lfoCnt ∧ y.lfoOut = x.lfoOut)

/-- 44_lfo R196: the value is 0 behind the gate or at depth 0, and else the product scaled by type and
then shifted, rounding toward minus infinity; it fits 32 bits before the shift. -/
def Obligations.LfoValueIsScaledProduct : Prop :=
  ∀ (s : State) (x : Voice),
    let product := sinIdx s.cfg (coarse x.lfoCnt) * (s.lfoDepth.toNat : Int) * (s.lfoRange.toNat : Int)
    let scaled := if s.lfoType = .volume then product * 60 else product * 64
    (coarse x.lfoCnt).toNat = x.lfoCnt.toNat / 256 ∧
    product.natAbs ≤ 16581375 ∧ scaled.natAbs < 2 ^ 31 ∧
    lfoValue s x =
      (if s.lfoDepth = 0 ∨ x.lfoDly.toNat < s.lfoDelay.toNat then 0 else Int.fdiv scaled 16384)

/-- 44_lfo R195: the four quadrants, the range, and that the entries 33 to 35 of `QSIN` are never read. -/
def Obligations.SineFromQuarterTable : Prop :=
  ∀ (c : Cfg) (x : BitVec 7),
    let q : Nat → Int := fun k => ((c.qsin.toList.getD k 0).toNat : Int)
    let n := x.toNat
    (n < 32 → sinIdx c x = q n) ∧ (32 ≤ n → n < 64 → sinIdx c x = q (64 - n)) ∧
    (64 ≤ n → n < 96 → sinIdx c x = -q (n - 64)) ∧ (96 ≤ n → sinIdx c x = -q (128 - n)) ∧
    (sinIdx c x).natAbs ≤ 255 ∧
    (∀ c' : Cfg, (∀ k, k ≤ 32 → c'.qsin.toList.getD k 0 = c.qsin.toList.getD k 0) →
      sinIdx c' x = sinIdx c x)

/-- 44_lfo R191. -/
def Obligations.LfocfgWritesConfiguration : Prop :=
  ∀ (s : State) (type : BitVec 2) (depth range speed : BitVec 8) (delay : BitVec 16) (mbz : BitVec 24),
    let i : Instr := .lfocfg type depth range speed delay mbz
    (s.Ready → type ≠ 3 → mbz = 0 →
      ∃ t : State, exec i s = .next t ∧
        t = { s with
          lfoType := t.lfoType, lfoDepth := depth, lfoRange := range, lfoSpeed := speed
          lfoDelay := delay } ∧
        t.lfoType.num = type) ∧
    (type = 3 → EndsInFault .illegal none i s) ∧
    (s.Ready → type ≠ 3 → mbz ≠ 0 → EndsInFault .operand none i s)

/-! ## The BLR and BQ units -/

/-- 42_blr R160, R161, R162: the step is the difference from `BL_LAST`, each tap lands in its own slot of
the ring, one product and one sum rounded, and every other slot and register stays; the three faults. -/
def Obligations.BstepConvolvesStep : Prop :=
  ∀ (s : State) (v : Slot) (off : BitVec 10) (ph : BitVec 6) (x : Sample), s.Ready →
    let i : Instr := .bstep v off ph x
    let old := s.voice v
    let slot := fun n : Nat => (old.blRd + off.toNat + n) % nSlots s.cfg
    (s.Inv → s.cfg.num.finite x = true → old.mode = .blstep → off.toNat + nTaps s.cfg ≤ nSlots s.cfg →
      ∃ (t : State) (taps : List Sample),
        s.cfg.kbank[ph.toNat]? = some taps ∧ taps.length = nTaps s.cfg ∧
        exec i s = .next t ∧ OnlyVoiceChanged v s t ∧
        t.voice v = { old with blLast := x, buf := (t.voice v).buf } ∧
        (∀ n : Nat, n < nTaps s.cfg →
          (t.voice v).buf.read s.cfg.num.s0 (slot n) =
            s.cfg.num.add (2 :: n :: s.site) (old.buf.read s.cfg.num.s0 (slot n))
              (s.cfg.num.mul (1 :: n :: s.site) (taps.getD n s.cfg.num.s0)
                (s.cfg.num.sub (0 :: s.site) x old.blLast))) ∧
        (∀ j : Nat, (∀ n : Nat, n < nTaps s.cfg → j ≠ slot n) →
          (t.voice v).buf.read s.cfg.num.s0 j = old.buf.read s.cfg.num.s0 j)) ∧
    (s.cfg.num.finite x = false → EndsInFault .operand (some v) i s) ∧
    (s.cfg.num.finite x = true → old.mode ≠ .blstep → EndsInFault .mode (some v) i s) ∧
    (s.cfg.num.finite x = true → old.mode = .blstep → nSlots s.cfg < off.toNat + nTaps s.cfg →
      EndsInFault .range (some v) i s)

/-- 42_blr R164, R165: integrate, drain, advance, and the optional filter; the fault; and that `BL_ACC`
moves only so, by `BREAD` and `FRAME`, and with the `NOTEON` that takes the slot and resets it. -/
def Obligations.BreadIntegratesAndDrains : Prop :=
  (∀ (s : State) (v : Slot), s.Ready →
    (s.Inv → (s.voice v).mode = .blstep →
      ∃ t : State, exec (.bread v) s = .next t ∧ OnlyVoiceChanged v s t ∧
        let x := s.voice v
        let y := t.voice v
        let p := v.toNat :: 0 :: s.site
        y = { x with
          blAcc := y.blAcc, blRd := y.blRd, buf := y.buf, bq0 := y.bq0, bq1 := y.bq1
          vout := y.vout } ∧
        y.blAcc = s.cfg.num.add (0 :: p) x.blAcc (x.buf.read s.cfg.num.s0 x.blRd) ∧
        y.blRd = (x.blRd + 1) % nSlots s.cfg ∧
        (∀ j : Nat, y.buf.read s.cfg.num.s0 j =
          if j = x.blRd then s.cfg.num.s0 else x.buf.read s.cfg.num.s0 j) ∧
        (x.bqen = false → y.vout = y.blAcc ∧ y.bq0 = x.bq0 ∧ y.bq1 = x.bq1) ∧
        (x.bqen = true →
          y.vout = (bqChain s.cfg.num (1 :: p) x y.blAcc).1 ∧
          y.bq0 = (bqChain s.cfg.num (1 :: p) x y.blAcc).2.bq0 ∧
          y.bq1 = (bqChain s.cfg.num (1 :: p) x y.blAcc).2.bq1)) ∧
    ((s.voice v).mode ≠ .blstep → EndsInFault .mode (some v) (.bread v) s)) ∧
  (∀ (i : Instr) (s t : State) (v : Slot), exec i s = .next t →
    let x := s.voice v
    let y := t.voice v
    y.blAcc ≠ x.blAcc →
      (i.op = .noteon ∧ v = s.alloc ∧ y.blAcc = s.cfg.num.s0) ∨
      ((i = .bread v ∨ i = .frame) ∧
        y.blAcc =
          s.cfg.num.add (0 :: v.toNat :: 0 :: s.site) x.blAcc (x.buf.read s.cfg.num.s0 x.blRd)))

/-- 43_biquad R182, R183: with the filter on, a read-out runs stage 0 and then stage 1, each the direct
form I difference equation in its order of evaluation, and shifts each stage's histories. -/
def Obligations.ReadOutRunsBiquadChain : Prop :=
  ∀ (s : State) (v : Slot), s.Ready → s.Inv → (s.voice v).mode = .blstep → (s.voice v).bqen = true →
    ∃ t : State, exec (.bread v) s = .next t ∧
      let out := fun (p : Site) (q : Biquad) (x : Sample) =>
        s.cfg.num.sub (8 :: p)
          (s.cfg.num.sub (7 :: p)
            (s.cfg.num.add (6 :: p)
              (s.cfg.num.add (5 :: p) (s.cfg.num.mul (0 :: p) q.b0 x) (s.cfg.num.mul (1 :: p) q.b1 q.x1))
              (s.cfg.num.mul (2 :: p) q.b2 q.x2))
            (s.cfg.num.mul (3 :: p) q.a1 q.y1))
          (s.cfg.num.mul (4 :: p) q.a2 q.y2)
      let p := 1 :: v.toNat :: 0 :: s.site
      let q0 := (s.voice v).bq0
      let q1 := (s.voice v).bq1
      let a := (t.voice v).blAcc
      let y0 := out (0 :: p) q0 a
      let y1 := out (1 :: p) q1 y0
      (t.voice v).vout = y1 ∧
      (t.voice v).bq0 = { q0 with x2 := q0.x1, x1 := a, y2 := q0.y1, y1 := y0 } ∧
      (t.voice v).bq1 = { q1 with x2 := q1.x1, x1 := y0, y2 := q1.y1, y1 := y1 }

/-- 43_biquad R184: the filter state of a voice moves only with the `NOTEON` that takes the slot and with
a read-out of that voice while its `bqen` is set. -/
def Obligations.FilterStateMovesOnlyOnRead : Prop :=
  ∀ (i : Instr) (s t : State) (v : Slot), exec i s = .next t →
    (∃ j : Fin 4, (t.voice v).bq0.hist j ≠ (s.voice v).bq0.hist j ∨
      (t.voice v).bq1.hist j ≠ (s.voice v).bq1.hist j) →
    (i.op = .noteon ∧ v = s.alloc) ∨
    ((i = .bread v ∨ i = .frame) ∧ (s.voice v).bqen = true)

/-- 42_blr R166: the output is set as given, with no filter; the two faults. -/
def Obligations.VdirectSetsOutput : Prop :=
  ∀ (s : State) (v : Slot) (x : Sample), s.Ready →
    (s.cfg.num.finite x = true → (s.voice v).mode ≠ .blstep →
      ∃ t : State, exec (.vdirect v x) s = .next t ∧ OnlyVoiceChanged v s t ∧
        t.voice v = { s.voice v with vout := x }) ∧
    (s.cfg.num.finite x = false → EndsInFault .operand (some v) (.vdirect v x) s) ∧
    (s.cfg.num.finite x = true → (s.voice v).mode = .blstep →
      EndsInFault .mode (some v) (.vdirect v x) s)

/-- 43_biquad R181: one coefficient is loaded, the filter state is not touched; the two faults. -/
def Obligations.BqcoefLoadsCoefficient : Prop :=
  ∀ (s : State) (v : Slot) (stage : BitVec 1) (k : BitVec 3) (x : Sample),
    let i : Instr := .bqcoef v stage k x
    (s.Ready → k.toNat ≤ 4 → s.cfg.num.finite x = true →
      ∃ t : State, exec i s = .next t ∧ OnlyVoiceChanged v s t ∧
        t.voice v = { s.voice v with bq0 := (t.voice v).bq0, bq1 := (t.voice v).bq1 } ∧
        (∀ n : Fin 5,
          (t.voice v).bq0.coef n =
            (if stage = 0 ∧ n.val = k.toNat then x else (s.voice v).bq0.coef n) ∧
          (t.voice v).bq1.coef n =
            (if stage = 1 ∧ n.val = k.toNat then x else (s.voice v).bq1.coef n)) ∧
        (∀ j : Fin 4, (t.voice v).bq0.hist j = (s.voice v).bq0.hist j ∧
          (t.voice v).bq1.hist j = (s.voice v).bq1.hist j)) ∧
    (4 < k.toNat → EndsInFault .illegal none i s) ∧
    (s.Ready → k.toNat ≤ 4 → s.cfg.num.finite x = false → EndsInFault .operand (some v) i s)

/-! ## The mixer -/

/-- 45_mixer R212. -/
def Obligations.VgainSetsGain : Prop :=
  ∀ (s : State) (v : Slot) (ch : BitVec 1) (x : Sample), s.Ready →
    (s.cfg.num.finite x = true →
      ∃ t : State, exec (.vgain v ch x) s = .next t ∧ OnlyVoiceChanged v s t ∧
        t.voice v =
          (if ch = 0 then { s.voice v with vgl := x } else { s.voice v with vgr := x })) ∧
    (s.cfg.num.finite x = false → EndsInFault .operand (some v) (.vgain v ch x) s)

/-- 45_mixer R213. -/
def Obligations.MgainSetsGain : Prop :=
  ∀ (s : State) (ch : BitVec 1) (x : Sample), s.Ready →
    (s.cfg.num.finite x = true →
      ∃ t : State, exec (.mgain ch x) s = .next t ∧
        t = (if ch = 0 then { s with mgl := x } else { s with mgr := x })) ∧
    (s.cfg.num.finite x = false → EndsInFault .operand none (.mgain ch x) s)

/-- 45_mixer R214: the running sums over the slots in ascending order from `S0`, the master gains, that
nothing else changes, and that `MIX` may be repeated with the same result. -/
def Obligations.MixSumsActiveVoices : Prop :=
  ∀ s : State, s.Ready →
    ∃ t : State, exec .mix s = .next t ∧ t = { s with outl := t.outl, outr := t.outr } ∧
      exec .mix t = .next t ∧
      ∃ sl sr : Nat → Sample, sl 0 = s.cfg.num.s0 ∧ sr 0 = s.cfg.num.s0 ∧
        (∀ v : Slot,
          let n := v.toNat
          let p := n :: 0 :: 1 :: s.site
          let x := s.voice v
          let m := s.cfg.num.mul (0 :: p) x.vout x.vol
          (x.active = true →
            sl (n + 1) = s.cfg.num.add (3 :: p) (sl n) (s.cfg.num.mul (1 :: p) m x.vgl) ∧
            sr (n + 1) = s.cfg.num.add (4 :: p) (sr n) (s.cfg.num.mul (2 :: p) m x.vgr)) ∧
          (x.active = false → sl (n + 1) = sl n ∧ sr (n + 1) = sr n)) ∧
        t.outl = s.cfg.num.mul (0 :: 1 :: 1 :: s.site) (sl 16) s.mgl ∧
        t.outr = s.cfg.num.mul (1 :: 1 :: 1 :: s.site) (sr 16) s.mgr

/-- 45_mixer R216: every active band-limited voice is read out, no other voice is touched, and then
exactly `MIX` follows.  A voice that is read out changes in its integral, its read index, the slot it
drains, its filter state and its output only. -/
def Obligations.FrameAdvancesThenMixes : Prop :=
  ∀ s : State, s.Ready → s.Inv →
    ∃ m t : State, exec .frame s = .next t ∧ exec .mix m = .next t ∧
      m = { s with voices := m.voices } ∧ t = { m with outl := t.outl, outr := t.outr } ∧
      ∀ v : Slot,
        ((s.voice v).active = true ∧ (s.voice v).mode = .blstep →
          m.voice v = blRead s.cfg.num (v.toNat :: 0 :: s.site) (nSlots s.cfg) (s.voice v) ∧
          m.voice v = { s.voice v with
            blAcc := (m.voice v).blAcc, blRd := (m.voice v).blRd, buf := (m.voice v).buf
            bq0 := (m.voice v).bq0, bq1 := (m.voice v).bq1, vout := (m.voice v).vout } ∧
          ∀ j : Nat, (m.voice v).buf.read s.cfg.num.s0 j =
            if j = (s.voice v).blRd then s.cfg.num.s0 else (s.voice v).buf.read s.cfg.num.s0 j) ∧
        (¬((s.voice v).active = true ∧ (s.voice v).mode = .blstep) → m.voice v = s.voice v)

/-! ## The reads -/

/-- 10_state R44: the complete list of register numbers; `RDREG` of any other number faults. -/
def Obligations.RegisterNumbersAreThese : Prop :=
  ∀ (s : State) (v : Slot) (r : BitVec 8),
    (registerExists r.toNat = true → (r.toNat < 0x40 → v = 0) →
      ∃ d : Data, exec (.rdreg v r) s = .next { s with rdata := d }) ∧
    (registerExists r.toNat = false →
      EndsInFault .operand (if r.toNat < 0x40 then none else some v) (.rdreg v r) s)

/-- 46_system R231: what each register number reads, and the two faults.  The number of `DB_MIN` rests on
log 10. -/
def Obligations.RdregReturnsRegister : Prop :=
  ∀ (s : State) (v : Slot),
    let x := s.voice v
    let b := fun (c : Bool) (k : Nat) => if c then 2 ^ k else 0
    (∀ e ∈ ([(0x00, 0x4F50424C52000001), (0x03, s.cfg.fr),
        (0x04, BitVec.ofInt 64 (1 - (s.cfg.lindb.val.length : Int))),
        (0x08, s.err.setWidth 64), (0x09, s.errv.setWidth 64), (0x0A, s.tickcnt.setWidth 64),
        (0x0B, s.alloc.setWidth 64), (0x0C, s.lastslot.setWidth 64), (0x0E, s.errw.setWidth 64),
        (0x10, s.lfoType.num.setWidth 64), (0x11, s.lfoDepth.setWidth 64),
        (0x12, s.lfoRange.setWidth 64), (0x13, s.lfoSpeed.setWidth 64),
        (0x14, s.lfoDelay.setWidth 64), (0x18, s.mgl), (0x19, s.mgr), (0x1A, s.outl),
        (0x1B, s.outr)] : List (BitVec 8 × Data)),
      exec (.rdreg 0 e.1) s = .next { s with rdata := e.2 }) ∧
    (∀ ks : Nat, s.cfg.ks = ks → ks < 2 ^ 16 →
      exec (.rdreg 0 0x01) s = .next { s with
        rdata := BitVec.ofNat 64
          (ks + 64 * 2 ^ 16 + b s.cfg.norm 24 + b s.cfg.mp 25 + 2 * 2 ^ 28) }) ∧
    (∀ bufsz : Nat, s.cfg.bufsz = bufsz → bufsz < 2 ^ 64 →
      exec (.rdreg 0 0x02) s = .next { s with rdata := BitVec.ofNat 64 bufsz }) ∧
    (∃ d : Data, exec (.rdreg 0 0x0D) s = .next { s with rdata := d } ∧ d.toNat < 2 ^ 16 ∧
      ∀ u : Slot, d.getLsbD u.toNat = (s.voice u).active) ∧
    (∀ e ∈ ([(0x40, BitVec.ofNat 64 (b x.active 0 + b x.psg 1 + b x.held 2 + b x.bqen 3 +
          16 * x.mode.num.toNat)),
        (0x41, x.gen.setWidth 64), (0x42, x.vel.setWidth 64), (0x43, x.phase.num.setWidth 64),
        (0x44, x.timer.signExtend 64), (0x45, x.atk.setWidth 64), (0x46, x.dec.setWidth 64),
        (0x47, x.sus.signExtend 64), (0x48, x.rel.setWidth 64), (0x49, x.endTick.setWidth 64),
        (0x4A, x.vol), (0x50, x.lfoCnt.setWidth 64), (0x51, x.lfoDly.setWidth 64),
        (0x52, x.lfoOut.signExtend 64), (0x58, BitVec.ofNat 64 x.blRd), (0x59, x.blAcc),
        (0x5A, x.blLast), (0x5B, x.vout), (0x5C, x.vgl), (0x5D, x.vgr),
        (0x60, x.bq0.b0), (0x61, x.bq0.b1), (0x62, x.bq0.b2), (0x63, x.bq0.a1), (0x64, x.bq0.a2),
        (0x65, x.bq1.b0), (0x66, x.bq1.b1), (0x67, x.bq1.b2), (0x68, x.bq1.a1), (0x69, x.bq1.a2),
        (0x70, x.bq0.x1), (0x71, x.bq0.x2), (0x72, x.bq0.y1), (0x73, x.bq0.y2),
        (0x74, x.bq1.x1), (0x75, x.bq1.x2), (0x76, x.bq1.y1), (0x77, x.bq1.y2)] :
          List (BitVec 8 × Data)),
      exec (.rdreg v e.1) s = .next { s with rdata := e.2 }) ∧
    (∀ r : BitVec 8, r.toNat < 0x40 → v ≠ 0 → EndsInFault .operand none (.rdreg v r) s) ∧
    (∀ r : BitVec 8, registerExists r.toNat = false →
      EndsInFault .operand (if r.toNat < 0x40 then none else some v) (.rdreg v r) s)

/-- 46_system R232. -/
def Obligations.RdbufReturnsSlot : Prop :=
  ∀ (s : State) (v : Slot) (idx : BitVec 16), s.Ready →
    (idx.toNat < nSlots s.cfg →
      exec (.rdbuf v idx) s = .next { s with rdata := (s.voice v).buf.read s.cfg.num.s0 idx.toNat }) ∧
    (nSlots s.cfg ≤ idx.toNat → EndsInFault .operand (some v) (.rdbuf v idx) s)

/-- 46_system R233. -/
def Obligations.RdkReturnsTap : Prop :=
  ∀ (s : State) (ph : BitVec 6) (tap : BitVec 16), s.Ready →
    (s.Inv → tap.toNat < nTaps s.cfg →
      ∃ (taps : List Sample) (x : Sample), s.cfg.kbank[ph.toNat]? = some taps ∧
        taps[tap.toNat]? = some x ∧ exec (.rdk ph tap) s = .next { s with rdata := x }) ∧
    (nTaps s.cfg ≤ tap.toNat → EndsInFault .operand none (.rdk ph tap) s)

/-- 46_system R234: the three tables, and the two faults; `KCFG` does not matter. -/
def Obligations.RdromReturnsEntry : Prop :=
  ∀ (s : State) (idx : BitVec 16),
    (∀ h : idx.toNat < 128,
      exec (.rdrom 0 idx) s = .next { s with rdata := s.cfg.dbvel[idx.toNat].signExtend 64 }) ∧
    (∀ h : idx.toNat < s.cfg.lindb.val.length,
      exec (.rdrom 1 idx) s = .next { s with rdata := s.cfg.lindb.val[idx.toNat].setWidth 64 }) ∧
    (∀ h : idx.toNat < 36,
      exec (.rdrom 2 idx) s = .next { s with rdata := s.cfg.qsin[idx.toNat].setWidth 64 }) ∧
    EndsInFault .operand none (.rdrom 3 idx) s ∧
    (128 ≤ idx.toNat → EndsInFault .operand none (.rdrom 0 idx) s) ∧
    (s.cfg.lindb.val.length ≤ idx.toNat → EndsInFault .operand none (.rdrom 1 idx) s) ∧
    (36 ≤ idx.toNat → EndsInFault .operand none (.rdrom 2 idx) s)

/-- 20_memory R67: a read command that does not fault changes nothing but `RDATA`, and reading again
returns the same value. -/
def Obligations.ReadsAreIdempotent : Prop :=
  ∀ (i : Instr) (s t : State), i.op ∈ [Op.rdreg, .rdbuf, .rdk, .rdrom] → operandBad s i = false →
    exec i s = .next t → t = { s with rdata := t.rdata } ∧ exec i t = .next t

/-! ## Which commands write what -/

/-- 10_state R45: `RDATA` is written by the four reads and by `NOTEON`, and is unchanged by every other
command and by every fault. -/
def Obligations.RdataWrittenByReadsAndNoteon : Prop :=
  ∀ (i : Instr) (s t : State), exec i s = .next t →
    (i.op ∉ [Op.rdreg, .rdbuf, .rdk, .rdrom, .noteon] ∨ t.err ≠ s.err ∨ expectedFault s i ≠ none) →
    t.rdata = s.rdata

/-- 10_state R27: `TICKCNT` counts the `TICK` commands completed, modulo 2^32, from 0. -/
def Obligations.TickcntCountsTicks : Prop :=
  (∀ c : Cfg, (State.resetOf c).tickcnt = 0) ∧
  (∀ (i : Instr) (s t : State), exec i s = .next t →
    t.tickcnt.toNat =
      (if i = .tick ∧ s.kcfg = false then (s.tickcnt.toNat + 1) % 2 ^ 32 else s.tickcnt.toNat))

/-- 10_state R28, 40_envelope R126: a `NOTEON` that completes advances the allocation pointer by one and
leaves the slot it took in `LASTSLOT`; every other command, and a `NOTEON` that faults or is refused,
leaves both. -/
def Obligations.AllocationIsRoundRobin : Prop :=
  (∀ (i : Instr) (s : State), i.op = .noteon → s.Ready → expectedFault s i = none →
    ∃ t : State, exec i s = .next t ∧ t.alloc.toNat = (s.alloc.toNat + 1) % 16 ∧
      t.lastslot = s.alloc) ∧
  (∀ (i : Instr) (s t : State), exec i s = .next t →
    ¬(i.op = .noteon ∧ s.Ready ∧ expectedFault s i = none) →
    t.alloc = s.alloc ∧ t.lastslot = s.lastslot)

/-- 10_state R30: the reset values of the mixer globals and the commands that write each. -/
def Obligations.MixerGlobalsHaveTheirWriters : Prop :=
  (∀ c : Cfg, (State.resetOf c).mgl = c.num.s1 ∧
    (State.resetOf c).mgr = c.num.s1 ∧ (State.resetOf c).outl = c.num.s0 ∧
    (State.resetOf c).outr = c.num.s0) ∧
  (∀ (i : Instr) (s t : State), exec i s = .next t →
    (t.mgl ≠ s.mgl → ∃ x, i = .mgain 0 x) ∧ (t.mgr ≠ s.mgr → ∃ x, i = .mgain 1 x) ∧
    (t.outl ≠ s.outl ∨ t.outr ≠ s.outr → i = .mix ∨ i = .frame))

/-- 10_state R29: the LFO configuration is 0 after reset and is written by `LFOCFG` only. -/
def Obligations.LfoConfigurationHasOneWriter : Prop :=
  (∀ c : Cfg, (State.resetOf c).lfoType.num = 0 ∧ (State.resetOf c).lfoDepth = 0 ∧
    (State.resetOf c).lfoRange = 0 ∧ (State.resetOf c).lfoSpeed = 0 ∧
    (State.resetOf c).lfoDelay = 0) ∧
  (∀ (i : Instr) (s t : State), exec i s = .next t → i.op ≠ .lfocfg →
    t.lfoType = s.lfoType ∧ t.lfoDepth = s.lfoDepth ∧ t.lfoRange = s.lfoRange ∧
    t.lfoSpeed = s.lfoSpeed ∧ t.lfoDelay = s.lfoDelay)

/-- 10_state R31, R32, R33, R36: `psg`, `held`, `bqen`, `mode`, the generation, the velocity and the
envelope coefficients are written only by the `NOTEON` that takes the slot. -/
def Obligations.NoteParametersHaveOneWriter : Prop :=
  ∀ (i : Instr) (s t : State) (v : Slot), exec i s = .next t → ¬(i.op = .noteon ∧ v = s.alloc) →
    let x := s.voice v
    let y := t.voice v
    y.psg = x.psg ∧ y.held = x.held ∧ y.bqen = x.bqen ∧ y.mode = x.mode ∧ y.gen = x.gen ∧
    y.vel = x.vel ∧ y.atk = x.atk ∧ y.dec = x.dec ∧ y.sus = x.sus ∧ y.rel = x.rel

/-- A command with a voice field changes no other voice, and no global register but `RDATA` and the error
registers.  Which field counts as the voice is 60_exceptions R241, what a fault writes R243; what a
command writes that completes are the writers of 10_state sections 2 and 3 and the commands' own rules
(40_envelope section 3, 42_blr, 43_biquad section 2, 45_mixer section 2, 46_system). -/
def Obligations.AddressedVoiceOnly : Prop :=
  ∀ (i : Instr) (s t : State) (v : Slot), voiceField i = some v → exec i s = .next t →
    t = { s with
      voices := t.voices, rdata := t.rdata, err := t.err, errv := t.errv, errw := t.errw } ∧
    ∀ u : Slot, u ≠ v → t.voice u = s.voice u

/-! ## The numerics -/

/-- 00_scope R10, the default `NUM` (log 3): on finite operands every primitive is the correctly rounded
operation, to nearest with ties to even, finite below the overflow threshold and the signed infinity from
it on.  An exact zero has the sign binary64 gives it. -/
def Obligations.ArithmeticIsNearest : Prop :=
  ∀ (p : Site) (a b : Sample), F64.finite a = true → F64.finite b = true →
    let A := F64.scaled a
    let B := F64.scaled b
    let num := Sys2Proof.Num.binary64
    F64.CorrectlyRounded (A + B) 1 (num.add p a b) ∧
    F64.CorrectlyRounded (A - B) 1 (num.sub p a b) ∧
    F64.CorrectlyRounded (A * B) (2 ^ 1074) (num.mul p a b) ∧
    (B ≠ 0 → F64.CorrectlyRounded (A * 2 ^ 1074 * B.sign) B.natAbs (num.div p a b)) ∧
    (A + B = 0 → F64.sign (num.add p a b) = (F64.sign a && F64.sign b)) ∧
    (A - B = 0 → F64.sign (num.sub p a b) = (F64.sign a && !F64.sign b)) ∧
    F64.sign (num.mul p a b) = (F64.sign a != F64.sign b) ∧
    (B ≠ 0 → F64.sign (num.div p a b) = (F64.sign a != F64.sign b))

/-- 00_scope R10, the default `NUM` (log 3): `sOfInt(n)` is exact for `|n| <= 2^24`. -/
def Obligations.SmallIntegersAreExact : Prop :=
  ∀ n : Int, n.natAbs ≤ 2 ^ 24 →
    let x := Sys2Proof.Num.binary64.ofInt n
    F64.finite x = true ∧ F64.scaled x = n * 2 ^ 1074
end

