-- ==== Sys2Proof/Laws/Encoding.lean ====
section
/-! SUPPORT. The bits of a field, of a command word and of a data operand: what the proofs about the
encoding rewrite with. -/

namespace Sys2Proof.Laws

theorem getLsbD_toWord {n : Nat} (x : BitVec n) (i : Nat) :
    (toWord x).getLsbD i = (decide (i < 32) && x.getLsbD i) := by
  simp [toWord]

theorem getLsbD_toData {n : Nat} (x : BitVec n) (i : Nat) :
    (toData x).getLsbD i = (decide (i < 64) && x.getLsbD i) := by
  simp [toData]

theorem getLsbD_field {m : Nat} (x : BitVec m) (lo n i : Nat) :
    (field x lo n).getLsbD i = (decide (i < n) && x.getLsbD (lo + i)) := by
  simp [field]

/-- A row selects a word when they agree on every bit of the mask. -/
theorem selects_of_bits {r : Row} {w : Word}
    (h : ∀ i < 32, (w.getLsbD i && r.mask.getLsbD i) = r.pattern.getLsbD i) : r.selects w = true := by
  rw [Row.selects, beq_iff_eq]
  apply BitVec.eq_of_getLsbD_eq
  intro i hi
  rw [BitVec.getLsbD_and]
  exact h i hi

end Sys2Proof.Laws
end

