-- ==== Sys2Proof/Laws/Float.lean ====
section
/-! SUPPORT. Patterns and values of Samples: what the check of the filter ratio on its pattern says of its
value. -/

namespace Sys2Proof.Machine

/-- A pattern without its sign is exponent and fraction. -/
theorem toNat_of_sign (x : Sample) (h : F64.sign x = false) :
    x.toNat = F64.expo x * 2 ^ 52 + F64.frac x := by
  have hs : x.toNat < 2 ^ 63 := by
    have := BitVec.msb_eq_decide x
    simp only [F64.sign] at h
    rw [h] at this
    simpa using this.symm
  simp only [F64.expo, F64.frac, BitVec.extractLsb'_toNat, Nat.shiftRight_eq_div_pow]
  omega

/-- The patterns of the finite values above 0 and up to 1. -/
theorem unitInterval_iff (x : Sample) :
    (F64.sign x = false ∧ x ≠ F64.s0 ∧ x.toNat ≤ F64.s1.toNat) ↔
      F64.finite x = true ∧ 0 < F64.scaled x ∧ F64.scaled x ≤ (F64.unit : Int) := by
  obtain ⟨P, hP, hlo, hhi, hU, h1022⟩ : ∃ P : Nat, 0 < P ∧
      (∀ e, e < 1023 → e ≠ 0 → 2 * 2 ^ (e - 1) ≤ P) ∧ (∀ e, 1023 < e → 2 * P ≤ 2 ^ (e - 1)) ∧
      F64.unit = 2 ^ 52 * P ∧ ∀ e, e = 1023 → 2 ^ (e - 1) = P := by
    refine ⟨2 ^ 1022, Nat.two_pow_pos _, fun e h h0 => ?_, fun e h => ?_, ?_, fun e h => by rw [h]⟩
    · rw [← Nat.pow_succ']
      exact Nat.pow_le_pow_right (by decide) (by omega)
    · rw [← Nat.pow_succ']
      exact Nat.pow_le_pow_right (by decide) (by omega)
    · rw [F64.unit, ← pow_add]
  generalize F64.unit = U at hU ⊢
  have h1 : F64.s1.toNat = 1023 * 2 ^ 52 := by decide
  cases hs : F64.sign x with
  | true =>
    have : ¬0 < F64.scaled x := by simp [F64.scaled, hs]
    simp [this]
  | false =>
    have ht := toNat_of_sign x hs
    have hf : F64.frac x < 2 ^ 52 := (x.extractLsb' 0 52).isLt
    have h0 : x ≠ F64.s0 ↔ 0 < F64.expo x * 2 ^ 52 + F64.frac x := by
      rw [← ht, Nat.pos_iff_ne_zero, ne_eq, ne_eq, ← BitVec.toNat_inj]
      rfl
    have hm : F64.scaled x = (F64.magnitude x : Int) := by simp [F64.scaled, hs]
    rw [ht, h0, h1, hm, hU, F64.magnitude, F64.finite, bne_iff_ne]
    norm_cast
    generalize F64.expo x = e at *
    generalize F64.frac x = f at *
    simp only [true_and]
    rcases Nat.lt_trichotomy e 1023 with he | he | he
    · by_cases h : e = 0
      · have : f ≤ 2 ^ 52 * P := le_trans hf.le (Nat.le_mul_of_pos_right _ hP)
        simp only [h, if_true]
        omega
      · have hl := hlo e he h
        have hq : 0 < 2 ^ (e - 1) := Nat.two_pow_pos _
        generalize 2 ^ (e - 1) = q at *
        have : (f + 2 ^ 52) * q ≤ 2 ^ 52 * P := by nlinarith
        have : 0 < (f + 2 ^ 52) * q := Nat.mul_pos (by omega) hq
        simp only [h, if_false]
        omega
    · rw [h1022 e he]
      subst he
      simp only [show ¬(1023 = 0) by decide, if_false]
      constructor
      · intro h
        have : f = 0 := by omega
        subst this
        exact ⟨by decide, Nat.mul_pos (by decide) hP, by rw [Nat.zero_add]⟩
      · rintro ⟨-, -, h⟩
        have := Nat.le_of_mul_le_mul_right h hP
        omega
    · have hl := hhi e he
      generalize 2 ^ (e - 1) = q at *
      have : ¬(f + 2 ^ 52) * q ≤ 2 ^ 52 * P := by nlinarith
      simp only [show ¬(e = 0) by omega, if_false, this, and_false, iff_false]
      omega

/-- `F64.inUnit` is `0 < a <= 1`, and finite. -/
theorem inUnit_iff (x : Sample) : F64.inUnit x = true ↔
    F64.finite x = true ∧ 0 < F64.scaled x ∧ F64.scaled x ≤ (F64.unit : Int) := by
  rw [← unitInterval_iff]
  simp only [F64.inUnit, Bool.and_eq_true, Bool.not_eq_true', decide_eq_true_eq, and_assoc]

/-- Under binary64 `frOk` is `FR` finite and `0 < FR <= 1` (41_kernel_bank R145). -/
theorem frOk_iff (c : Cfg) (h : c.num = .binary64) : frOk c = true ↔
    F64.finite c.fr = true ∧ 0 < F64.scaled c.fr ∧ F64.scaled c.fr ≤ (F64.unit : Int) := by
  rw [← inUnit_iff]
  simp only [frOk, h, Num.finite, Num.inUnit, Bool.and_eq_true, and_iff_right_iff_imp]
  exact fun hu => ((inUnit_iff _).mp hu).1

/-! ## `NUM` under the default -/

@[simp] theorem s0_binary64 : Num.binary64.s0 = F64.s0 := rfl
@[simp] theorem s1_binary64 : Num.binary64.s1 = F64.s1 := rfl
@[simp] theorem ofInt_binary64 (n : Int) : Num.binary64.ofInt n = F64.ofInt n := rfl
@[simp] theorem add_binary64 (p : Site) (a b : Sample) : Num.binary64.add p a b = F64.add p a b := rfl
@[simp] theorem sub_binary64 (p : Site) (a b : Sample) : Num.binary64.sub p a b = F64.sub p a b := rfl
@[simp] theorem mul_binary64 (p : Site) (a b : Sample) : Num.binary64.mul p a b = F64.mul p a b := rfl
@[simp] theorem div_binary64 (p : Site) (a b : Sample) : Num.binary64.div p a b = F64.div p a b := rfl
@[simp] theorem finite_binary64 (a : Sample) : Num.binary64.finite a = F64.finite a := rfl
@[simp] theorem inUnit_binary64 (a : Sample) : Num.binary64.inUnit a = F64.inUnit a := rfl

/-! Under any other `NUM` a quotient does not depend on the site. -/

theorem div_other (k : Nat) (p q : Site) (a b : Sample) :
    (Num.other k).div p a b = (Num.other k).div q a b := rfl

end Sys2Proof.Machine
end

