-- ==== Sys2Proof/Laws/Memory.lean ====
section
/-! SUPPORT. The laws of buffer memory: every write keeps the canonical form and stays in bounds, a read
after a write gives the value written, and a write leaves every other slot alone. -/

namespace Sys2Proof.Machine

variable {zero : Sample}

theorem wfFrom_mono {low low' : Nat} (h : low' ≤ low) {m : Memory} (hm : m.wfFrom zero low = true) :
    m.wfFrom zero low' = true := by
  cases m with
  | nil => rfl
  | cons cell rest =>
    obtain ⟨a, x⟩ := cell
    simp only [Memory.wfFrom, Bool.and_eq_true, decide_eq_true_eq] at hm ⊢
    exact ⟨⟨by omega, hm.1.2⟩, hm.2⟩

/-- A slot below every listed one reads `S0`. -/
theorem read_below {low j : Nat} {m : Memory} (hm : m.wfFrom zero low = true) (hj : j < low) :
    m.read zero j = zero := by
  induction m generalizing low with
  | nil => rfl
  | cons cell rest ih =>
    obtain ⟨a, x⟩ := cell
    simp only [Memory.wfFrom, Bool.and_eq_true, decide_eq_true_eq] at hm
    have : a ≠ j := by omega
    simp only [Memory.read, this, if_false]
    exact ih hm.2 (by omega)

theorem cons_wfFrom {low j : Nat} (x : Sample) {m : Memory} (hj : low ≤ j)
    (hm : m.wfFrom zero (j + 1) = true) : (Memory.cons zero j x m).wfFrom zero low = true := by
  unfold Memory.cons
  split
  · exact wfFrom_mono (by omega) hm
  · next h => simp [Memory.wfFrom, hj, h, hm]

theorem read_cons {j k : Nat} (x : Sample) {m : Memory} (hm : m.wfFrom zero (j + 1) = true) :
    (Memory.cons zero j x m).read zero k = if k = j then x else m.read zero k := by
  unfold Memory.cons
  split
  · next h =>
    split
    · next hk => rw [hk, h, read_below hm (by omega)]
    · rfl
  · simp only [Memory.read, eq_comm (a := j)]

theorem write_wfFrom {low j : Nat} (x : Sample) {m : Memory} (hj : low ≤ j)
    (hm : m.wfFrom zero low = true) : (m.write zero j x).wfFrom zero low = true := by
  induction m generalizing low with
  | nil => exact cons_wfFrom x hj rfl
  | cons cell rest ih =>
    obtain ⟨a, y⟩ := cell
    have hm' := hm
    simp only [Memory.wfFrom, Bool.and_eq_true, decide_eq_true_eq] at hm
    simp only [Memory.write]
    split
    · next h =>
      refine cons_wfFrom x hj ?_
      simp only [Memory.wfFrom, Bool.and_eq_true, decide_eq_true_eq]
      exact ⟨⟨h, hm.1.2⟩, hm.2⟩
    · split
      · next h => exact cons_wfFrom x hj (h ▸ hm.2)
      · simp only [Memory.wfFrom, Bool.and_eq_true, decide_eq_true_eq]
        exact ⟨hm.1, ih (by omega) hm.2⟩

/-- Every write keeps the canonical form. -/
theorem write_wf {m : Memory} (j : Nat) (x : Sample) (hm : m.wf zero = true) : (m.write zero j x).wf zero = true :=
  write_wfFrom x (Nat.zero_le j) hm

theorem read_write_from {low : Nat} {m : Memory} (j k : Nat) (x : Sample) (hm : m.wfFrom zero low = true) :
    (m.write zero j x).read zero k = if k = j then x else m.read zero k := by
  induction m generalizing low with
  | nil => exact read_cons x rfl
  | cons cell rest ih =>
    obtain ⟨a, y⟩ := cell
    have hm' := hm
    simp only [Memory.wfFrom, Bool.and_eq_true, decide_eq_true_eq] at hm
    simp only [Memory.write]
    split
    · next h =>
      refine read_cons x ?_
      simp only [Memory.wfFrom, Bool.and_eq_true, decide_eq_true_eq]
      exact ⟨⟨h, hm.1.2⟩, hm.2⟩
    · split
      · next h =>
        subst h
        rw [read_cons x hm.2]
        by_cases hk : k = j
        · simp [hk]
        · simp [Memory.read, hk, Ne.symm hk]
      · next h1 h2 =>
        simp only [Memory.read, ih hm.2]
        by_cases hk : a = k
        · have : k ≠ j := by omega
          simp [hk, this]
        · simp [hk]

/-- Read after write (20_memory R70). -/
theorem read_write {m : Memory} (j k : Nat) (x : Sample) (hm : m.wf zero = true) :
    (m.write zero j x).read zero k = if k = j then x else m.read zero k :=
  read_write_from j k x hm

theorem cons_inBounds {b j : Nat} (x : Sample) {m : Memory} (hj : j < b) (hm : m.inBounds b = true) :
    (Memory.cons zero j x m).inBounds b = true := by
  unfold Memory.cons
  split
  · exact hm
  · simpa [Memory.inBounds, hj] using hm

/-- A write to a slot that exists lists only slots that exist. -/
theorem write_inBounds {b j : Nat} (x : Sample) {m : Memory} (hj : j < b) (hm : m.inBounds b = true) :
    (m.write zero j x).inBounds b = true := by
  induction m with
  | nil => exact cons_inBounds x hj hm
  | cons cell rest ih =>
    obtain ⟨a, y⟩ := cell
    have hm' := hm
    simp only [Memory.inBounds, List.all_cons, Bool.and_eq_true, decide_eq_true_eq] at hm
    simp only [Memory.write]
    split
    · exact cons_inBounds x hj hm'
    · split
      · exact cons_inBounds x hj hm.2
      · have := ih hm.2
        simp only [Memory.inBounds, List.all_cons, Bool.and_eq_true, decide_eq_true_eq] at this ⊢
        exact ⟨hm.1, this⟩

/-- The empty buffer, that of reset and of `NOTEON`, is in canonical form. -/
theorem nil_wf : Memory.wf zero [] = true := rfl

end Sys2Proof.Machine
end

