-- ==== Sys2Proof/Laws/State.lean ====
section
/-! SUPPORT. The small lemmas of State: what each named update leaves in each field, and what each
leaves of the voice file. -/

namespace Sys2Proof.Machine

/-! ## `setVoice` -/

@[simp] theorem setVoice_cfg (s : State) (v : Slot) (x : Voice) : (s.setVoice v x).cfg = s.cfg := rfl
@[simp] theorem setVoice_err (s : State) (v : Slot) (x : Voice) : (s.setVoice v x).err = s.err := rfl
@[simp] theorem setVoice_errv (s : State) (v : Slot) (x : Voice) : (s.setVoice v x).errv = s.errv := rfl
@[simp] theorem setVoice_errw (s : State) (v : Slot) (x : Voice) : (s.setVoice v x).errw = s.errw := rfl
@[simp] theorem setVoice_tickcnt (s : State) (v : Slot) (x : Voice) : (s.setVoice v x).tickcnt = s.tickcnt := rfl
@[simp] theorem setVoice_alloc (s : State) (v : Slot) (x : Voice) : (s.setVoice v x).alloc = s.alloc := rfl
@[simp] theorem setVoice_lastslot (s : State) (v : Slot) (x : Voice) : (s.setVoice v x).lastslot = s.lastslot := rfl
@[simp] theorem setVoice_lfoType (s : State) (v : Slot) (x : Voice) : (s.setVoice v x).lfoType = s.lfoType := rfl
@[simp] theorem setVoice_lfoDepth (s : State) (v : Slot) (x : Voice) : (s.setVoice v x).lfoDepth = s.lfoDepth := rfl
@[simp] theorem setVoice_lfoRange (s : State) (v : Slot) (x : Voice) : (s.setVoice v x).lfoRange = s.lfoRange := rfl
@[simp] theorem setVoice_lfoSpeed (s : State) (v : Slot) (x : Voice) : (s.setVoice v x).lfoSpeed = s.lfoSpeed := rfl
@[simp] theorem setVoice_lfoDelay (s : State) (v : Slot) (x : Voice) : (s.setVoice v x).lfoDelay = s.lfoDelay := rfl
@[simp] theorem setVoice_mgl (s : State) (v : Slot) (x : Voice) : (s.setVoice v x).mgl = s.mgl := rfl
@[simp] theorem setVoice_mgr (s : State) (v : Slot) (x : Voice) : (s.setVoice v x).mgr = s.mgr := rfl
@[simp] theorem setVoice_outl (s : State) (v : Slot) (x : Voice) : (s.setVoice v x).outl = s.outl := rfl
@[simp] theorem setVoice_outr (s : State) (v : Slot) (x : Voice) : (s.setVoice v x).outr = s.outr := rfl
@[simp] theorem setVoice_voices (s : State) (v : Slot) (x : Voice) : (s.setVoice v x).voices = s.voices.set v.toNat x v.isLt := rfl
@[simp] theorem setVoice_rdata (s : State) (v : Slot) (x : Voice) : (s.setVoice v x).rdata = s.rdata := rfl
@[simp] theorem setVoice_cmds (s : State) (v : Slot) (x : Voice) : (s.setVoice v x).cmds = s.cmds := rfl
@[simp] theorem setVoice_pos (s : State) (v : Slot) (x : Voice) : (s.setVoice v x).pos = s.pos := rfl
@[simp] theorem setVoice_fresh (s : State) (v : Slot) (x : Voice) : (s.setVoice v x).fresh = s.fresh := rfl

/-! ## `setRdata` -/

@[simp] theorem setRdata_cfg (s : State) (d : Data) : (s.setRdata d).cfg = s.cfg := rfl
@[simp] theorem setRdata_err (s : State) (d : Data) : (s.setRdata d).err = s.err := rfl
@[simp] theorem setRdata_errv (s : State) (d : Data) : (s.setRdata d).errv = s.errv := rfl
@[simp] theorem setRdata_errw (s : State) (d : Data) : (s.setRdata d).errw = s.errw := rfl
@[simp] theorem setRdata_tickcnt (s : State) (d : Data) : (s.setRdata d).tickcnt = s.tickcnt := rfl
@[simp] theorem setRdata_alloc (s : State) (d : Data) : (s.setRdata d).alloc = s.alloc := rfl
@[simp] theorem setRdata_lastslot (s : State) (d : Data) : (s.setRdata d).lastslot = s.lastslot := rfl
@[simp] theorem setRdata_lfoType (s : State) (d : Data) : (s.setRdata d).lfoType = s.lfoType := rfl
@[simp] theorem setRdata_lfoDepth (s : State) (d : Data) : (s.setRdata d).lfoDepth = s.lfoDepth := rfl
@[simp] theorem setRdata_lfoRange (s : State) (d : Data) : (s.setRdata d).lfoRange = s.lfoRange := rfl
@[simp] theorem setRdata_lfoSpeed (s : State) (d : Data) : (s.setRdata d).lfoSpeed = s.lfoSpeed := rfl
@[simp] theorem setRdata_lfoDelay (s : State) (d : Data) : (s.setRdata d).lfoDelay = s.lfoDelay := rfl
@[simp] theorem setRdata_mgl (s : State) (d : Data) : (s.setRdata d).mgl = s.mgl := rfl
@[simp] theorem setRdata_mgr (s : State) (d : Data) : (s.setRdata d).mgr = s.mgr := rfl
@[simp] theorem setRdata_outl (s : State) (d : Data) : (s.setRdata d).outl = s.outl := rfl
@[simp] theorem setRdata_outr (s : State) (d : Data) : (s.setRdata d).outr = s.outr := rfl
@[simp] theorem setRdata_voices (s : State) (d : Data) : (s.setRdata d).voices = s.voices := rfl
@[simp] theorem setRdata_rdata (s : State) (d : Data) : (s.setRdata d).rdata = d := rfl
@[simp] theorem setRdata_cmds (s : State) (d : Data) : (s.setRdata d).cmds = s.cmds := rfl
@[simp] theorem setRdata_pos (s : State) (d : Data) : (s.setRdata d).pos = s.pos := rfl
@[simp] theorem setRdata_fresh (s : State) (d : Data) : (s.setRdata d).fresh = s.fresh := rfl

/-! ## `takeFault` -/

@[simp] theorem takeFault_cfg (s : State) (c : FaultCode) (v : Option Slot) (w : Word) : (s.takeFault c v w).cfg = s.cfg := rfl
@[simp] theorem takeFault_err (s : State) (c : FaultCode) (v : Option Slot) (w : Word) : (s.takeFault c v w).err = errSet s.err c := rfl
@[simp] theorem takeFault_errv (s : State) (c : FaultCode) (v : Option Slot) (w : Word) : (s.takeFault c v w).errv = (match v with | some v => errvSet s.errv v | none => s.errv) := rfl
@[simp] theorem takeFault_errw (s : State) (c : FaultCode) (v : Option Slot) (w : Word) : (s.takeFault c v w).errw = if s.noCommandFault then w else s.errw := rfl
@[simp] theorem takeFault_tickcnt (s : State) (c : FaultCode) (v : Option Slot) (w : Word) : (s.takeFault c v w).tickcnt = s.tickcnt := rfl
@[simp] theorem takeFault_alloc (s : State) (c : FaultCode) (v : Option Slot) (w : Word) : (s.takeFault c v w).alloc = s.alloc := rfl
@[simp] theorem takeFault_lastslot (s : State) (c : FaultCode) (v : Option Slot) (w : Word) : (s.takeFault c v w).lastslot = s.lastslot := rfl
@[simp] theorem takeFault_lfoType (s : State) (c : FaultCode) (v : Option Slot) (w : Word) : (s.takeFault c v w).lfoType = s.lfoType := rfl
@[simp] theorem takeFault_lfoDepth (s : State) (c : FaultCode) (v : Option Slot) (w : Word) : (s.takeFault c v w).lfoDepth = s.lfoDepth := rfl
@[simp] theorem takeFault_lfoRange (s : State) (c : FaultCode) (v : Option Slot) (w : Word) : (s.takeFault c v w).lfoRange = s.lfoRange := rfl
@[simp] theorem takeFault_lfoSpeed (s : State) (c : FaultCode) (v : Option Slot) (w : Word) : (s.takeFault c v w).lfoSpeed = s.lfoSpeed := rfl
@[simp] theorem takeFault_lfoDelay (s : State) (c : FaultCode) (v : Option Slot) (w : Word) : (s.takeFault c v w).lfoDelay = s.lfoDelay := rfl
@[simp] theorem takeFault_mgl (s : State) (c : FaultCode) (v : Option Slot) (w : Word) : (s.takeFault c v w).mgl = s.mgl := rfl
@[simp] theorem takeFault_mgr (s : State) (c : FaultCode) (v : Option Slot) (w : Word) : (s.takeFault c v w).mgr = s.mgr := rfl
@[simp] theorem takeFault_outl (s : State) (c : FaultCode) (v : Option Slot) (w : Word) : (s.takeFault c v w).outl = s.outl := rfl
@[simp] theorem takeFault_outr (s : State) (c : FaultCode) (v : Option Slot) (w : Word) : (s.takeFault c v w).outr = s.outr := rfl
@[simp] theorem takeFault_voices (s : State) (c : FaultCode) (v : Option Slot) (w : Word) : (s.takeFault c v w).voices = s.voices := rfl
@[simp] theorem takeFault_rdata (s : State) (c : FaultCode) (v : Option Slot) (w : Word) : (s.takeFault c v w).rdata = s.rdata := rfl
@[simp] theorem takeFault_cmds (s : State) (c : FaultCode) (v : Option Slot) (w : Word) : (s.takeFault c v w).cmds = s.cmds := rfl
@[simp] theorem takeFault_pos (s : State) (c : FaultCode) (v : Option Slot) (w : Word) : (s.takeFault c v w).pos = s.pos := rfl
@[simp] theorem takeFault_fresh (s : State) (c : FaultCode) (v : Option Slot) (w : Word) : (s.takeFault c v w).fresh = s.fresh := rfl

/-! ## `consume` -/

@[simp] theorem consume_cfg (s : State) : (s.consume).cfg = s.cfg := rfl
@[simp] theorem consume_err (s : State) : (s.consume).err = s.err := rfl
@[simp] theorem consume_errv (s : State) : (s.consume).errv = s.errv := rfl
@[simp] theorem consume_errw (s : State) : (s.consume).errw = s.errw := rfl
@[simp] theorem consume_tickcnt (s : State) : (s.consume).tickcnt = s.tickcnt := rfl
@[simp] theorem consume_alloc (s : State) : (s.consume).alloc = s.alloc := rfl
@[simp] theorem consume_lastslot (s : State) : (s.consume).lastslot = s.lastslot := rfl
@[simp] theorem consume_lfoType (s : State) : (s.consume).lfoType = s.lfoType := rfl
@[simp] theorem consume_lfoDepth (s : State) : (s.consume).lfoDepth = s.lfoDepth := rfl
@[simp] theorem consume_lfoRange (s : State) : (s.consume).lfoRange = s.lfoRange := rfl
@[simp] theorem consume_lfoSpeed (s : State) : (s.consume).lfoSpeed = s.lfoSpeed := rfl
@[simp] theorem consume_lfoDelay (s : State) : (s.consume).lfoDelay = s.lfoDelay := rfl
@[simp] theorem consume_mgl (s : State) : (s.consume).mgl = s.mgl := rfl
@[simp] theorem consume_mgr (s : State) : (s.consume).mgr = s.mgr := rfl
@[simp] theorem consume_outl (s : State) : (s.consume).outl = s.outl := rfl
@[simp] theorem consume_outr (s : State) : (s.consume).outr = s.outr := rfl
@[simp] theorem consume_voices (s : State) : (s.consume).voices = s.voices := rfl
@[simp] theorem consume_rdata (s : State) : (s.consume).rdata = s.rdata := rfl
@[simp] theorem consume_cmds (s : State) : (s.consume).cmds = s.cmds.tail := rfl
@[simp] theorem consume_pos (s : State) : (s.consume).pos = s.pos + 1 := rfl
@[simp] theorem consume_fresh (s : State) : (s.consume).fresh = s.fresh + 1 := rfl

/-! ## `mixOutputs` -/

@[simp] theorem mixOutputs_cfg (p : Site) (s : State) : (mixOutputs p s).cfg = s.cfg := rfl
@[simp] theorem mixOutputs_err (p : Site) (s : State) : (mixOutputs p s).err = s.err := rfl
@[simp] theorem mixOutputs_errv (p : Site) (s : State) : (mixOutputs p s).errv = s.errv := rfl
@[simp] theorem mixOutputs_errw (p : Site) (s : State) : (mixOutputs p s).errw = s.errw := rfl
@[simp] theorem mixOutputs_tickcnt (p : Site) (s : State) : (mixOutputs p s).tickcnt = s.tickcnt := rfl
@[simp] theorem mixOutputs_alloc (p : Site) (s : State) : (mixOutputs p s).alloc = s.alloc := rfl
@[simp] theorem mixOutputs_lastslot (p : Site) (s : State) : (mixOutputs p s).lastslot = s.lastslot := rfl
@[simp] theorem mixOutputs_lfoType (p : Site) (s : State) : (mixOutputs p s).lfoType = s.lfoType := rfl
@[simp] theorem mixOutputs_lfoDepth (p : Site) (s : State) : (mixOutputs p s).lfoDepth = s.lfoDepth := rfl
@[simp] theorem mixOutputs_lfoRange (p : Site) (s : State) : (mixOutputs p s).lfoRange = s.lfoRange := rfl
@[simp] theorem mixOutputs_lfoSpeed (p : Site) (s : State) : (mixOutputs p s).lfoSpeed = s.lfoSpeed := rfl
@[simp] theorem mixOutputs_lfoDelay (p : Site) (s : State) : (mixOutputs p s).lfoDelay = s.lfoDelay := rfl
@[simp] theorem mixOutputs_mgl (p : Site) (s : State) : (mixOutputs p s).mgl = s.mgl := rfl
@[simp] theorem mixOutputs_mgr (p : Site) (s : State) : (mixOutputs p s).mgr = s.mgr := rfl
@[simp] theorem mixOutputs_outl (p : Site) (s : State) : (mixOutputs p s).outl = s.cfg.num.mul (0 :: 1 :: p) (mixSum p s).1 s.mgl := rfl
@[simp] theorem mixOutputs_outr (p : Site) (s : State) : (mixOutputs p s).outr = s.cfg.num.mul (1 :: 1 :: p) (mixSum p s).2 s.mgr := rfl
@[simp] theorem mixOutputs_voices (p : Site) (s : State) : (mixOutputs p s).voices = s.voices := rfl
@[simp] theorem mixOutputs_rdata (p : Site) (s : State) : (mixOutputs p s).rdata = s.rdata := rfl
@[simp] theorem mixOutputs_cmds (p : Site) (s : State) : (mixOutputs p s).cmds = s.cmds := rfl
@[simp] theorem mixOutputs_pos (p : Site) (s : State) : (mixOutputs p s).pos = s.pos := rfl
@[simp] theorem mixOutputs_fresh (p : Site) (s : State) : (mixOutputs p s).fresh = s.fresh := rfl

/-! ## The voice file -/

@[simp] theorem voice_setVoice (s : State) (v u : Slot) (x : Voice) :
    (s.setVoice v x).voice u = if u = v then x else s.voice u := by
  simp only [State.voice, State.setVoice, Vector.getElem_set]
  by_cases h : u = v
  · simp [h]
  · have : ¬v.toNat = u.toNat := fun e => h (BitVec.eq_of_toNat_eq e.symm)
    simp [h, this]

/-- A state is known by its other fields and its sixteen voices. -/
theorem voices_ext {s t : State} (h : ∀ v, s.voice v = t.voice v) : s.voices = t.voices := by
  apply Vector.ext
  intro i hi
  have := h (BitVec.ofNat 4 i)
  simpa [State.voice, Nat.mod_eq_of_lt hi] using this

@[simp] theorem voice_setRdata (s : State) (d : Data) (u : Slot) :
    (s.setRdata d).voice u = s.voice u := rfl

@[simp] theorem voice_takeFault (s : State) (c : FaultCode) (v : Option Slot) (w : Word) (u : Slot) :
    (s.takeFault c v w).voice u = s.voice u := rfl

@[simp] theorem voice_consume (s : State) (u : Slot) : s.consume.voice u = s.voice u := rfl

@[simp] theorem voice_mixOutputs (p : Site) (s : State) (u : Slot) :
    (mixOutputs p s).voice u = s.voice u := rfl

/-! ## `mapVoices` -/

/-- The loop over a list of slots without repeats: each listed voice is replaced once, from its value
before the loop. -/
theorem foldl_setVoice (f : Slot → Voice → Voice) (l : List Slot) (hl : l.Nodup) (s : State) (u : Slot) :
    (l.foldl (fun t v => t.setVoice v (f v (t.voice v))) s).voice u =
      if u ∈ l then f u (s.voice u) else s.voice u := by
  induction l generalizing s with
  | nil => simp
  | cons v l ih =>
    obtain ⟨hv, hl⟩ := List.nodup_cons.mp hl
    simp only [List.foldl_cons, ih hl, voice_setVoice, List.mem_cons]
    by_cases h : u = v
    · subst h
      simp [hv]
    · simp [h]

theorem mem_slots (v : Slot) : v ∈ slots := by
  revert v
  decide

theorem nodup_slots : slots.Nodup := by decide

/-- Every voice is replaced, each from its value before the loop. -/
@[simp] theorem voice_mapVoices (s : State) (f : Slot → Voice → Voice) (v : Slot) :
    (s.mapVoices f).voice v = f v (s.voice v) := by
  simp [State.mapVoices, foldl_setVoice f slots nodup_slots, mem_slots]

theorem foldl_setVoice_eq (f : Slot → Voice → Voice) (l : List Slot) (s : State) :
    l.foldl (fun t v => t.setVoice v (f v (t.voice v))) s =
      { s with voices := (l.foldl (fun t v => t.setVoice v (f v (t.voice v))) s).voices } := by
  induction l generalizing s with
  | nil => rfl
  | cons v l ih =>
    rw [List.foldl_cons, ih]
    rfl

/-- The loop changes the voice file and nothing else. -/
theorem mapVoices_eq (s : State) (f : Slot → Voice → Voice) :
    s.mapVoices f = { s with voices := (s.mapVoices f).voices } :=
  foldl_setVoice_eq f slots s

@[simp] theorem mapVoices_cfg (s : State) (f : Slot → Voice → Voice) : (s.mapVoices f).cfg = s.cfg := by
  rw [mapVoices_eq]
@[simp] theorem mapVoices_err (s : State) (f : Slot → Voice → Voice) : (s.mapVoices f).err = s.err := by
  rw [mapVoices_eq]
@[simp] theorem mapVoices_errv (s : State) (f : Slot → Voice → Voice) : (s.mapVoices f).errv = s.errv := by
  rw [mapVoices_eq]
@[simp] theorem mapVoices_errw (s : State) (f : Slot → Voice → Voice) : (s.mapVoices f).errw = s.errw := by
  rw [mapVoices_eq]
@[simp] theorem mapVoices_tickcnt (s : State) (f : Slot → Voice → Voice) : (s.mapVoices f).tickcnt = s.tickcnt := by
  rw [mapVoices_eq]
@[simp] theorem mapVoices_alloc (s : State) (f : Slot → Voice → Voice) : (s.mapVoices f).alloc = s.alloc := by
  rw [mapVoices_eq]
@[simp] theorem mapVoices_lastslot (s : State) (f : Slot → Voice → Voice) : (s.mapVoices f).lastslot = s.lastslot := by
  rw [mapVoices_eq]
@[simp] theorem mapVoices_lfoType (s : State) (f : Slot → Voice → Voice) : (s.mapVoices f).lfoType = s.lfoType := by
  rw [mapVoices_eq]
@[simp] theorem mapVoices_lfoDepth (s : State) (f : Slot → Voice → Voice) : (s.mapVoices f).lfoDepth = s.lfoDepth := by
  rw [mapVoices_eq]
@[simp] theorem mapVoices_lfoRange (s : State) (f : Slot → Voice → Voice) : (s.mapVoices f).lfoRange = s.lfoRange := by
  rw [mapVoices_eq]
@[simp] theorem mapVoices_lfoSpeed (s : State) (f : Slot → Voice → Voice) : (s.mapVoices f).lfoSpeed = s.lfoSpeed := by
  rw [mapVoices_eq]
@[simp] theorem mapVoices_lfoDelay (s : State) (f : Slot → Voice → Voice) : (s.mapVoices f).lfoDelay = s.lfoDelay := by
  rw [mapVoices_eq]
@[simp] theorem mapVoices_mgl (s : State) (f : Slot → Voice → Voice) : (s.mapVoices f).mgl = s.mgl := by
  rw [mapVoices_eq]
@[simp] theorem mapVoices_mgr (s : State) (f : Slot → Voice → Voice) : (s.mapVoices f).mgr = s.mgr := by
  rw [mapVoices_eq]
@[simp] theorem mapVoices_outl (s : State) (f : Slot → Voice → Voice) : (s.mapVoices f).outl = s.outl := by
  rw [mapVoices_eq]
@[simp] theorem mapVoices_outr (s : State) (f : Slot → Voice → Voice) : (s.mapVoices f).outr = s.outr := by
  rw [mapVoices_eq]
@[simp] theorem mapVoices_rdata (s : State) (f : Slot → Voice → Voice) : (s.mapVoices f).rdata = s.rdata := by
  rw [mapVoices_eq]
@[simp] theorem mapVoices_cmds (s : State) (f : Slot → Voice → Voice) : (s.mapVoices f).cmds = s.cmds := by
  rw [mapVoices_eq]
@[simp] theorem mapVoices_pos (s : State) (f : Slot → Voice → Voice) : (s.mapVoices f).pos = s.pos := by
  rw [mapVoices_eq]
@[simp] theorem mapVoices_fresh (s : State) (f : Slot → Voice → Voice) : (s.mapVoices f).fresh = s.fresh := by
  rw [mapVoices_eq]

end Sys2Proof.Machine
end

