-- ==== Sys2Proof/Laws/Ops.lean ====
section
/-! SUPPORT. One lemma for each shared operation, saying once everything it can do; later proofs cite
these and do not unfold the operation. -/

namespace Sys2Proof.Machine

/-! ## The refusal state and faults -/

theorem unlessKcfg_ready {s : State} (h : s.Ready) (run : Out) : unlessKcfg s run = run := by
  have h : s.kcfg = false := h
  simp [unlessKcfg, h]

theorem unlessKcfg_kcfg {s : State} (h : s.kcfg = true) (run : Out) : unlessKcfg s run = .next s := by
  simp [unlessKcfg, h]

/-- A checked command that goes on either was refused and changed nothing, or ran. -/
theorem unlessKcfg_next {s t : State} {run : Out} (h : unlessKcfg s run = .next t) :
    (s.kcfg = true ∧ t = s) ∨ (s.Ready ∧ run = .next t) := by
  cases hk : s.kcfg
  · rw [unlessKcfg_ready hk] at h
    exact .inr ⟨hk, h⟩
  · rw [unlessKcfg_kcfg hk] at h
    cases h
    exact .inl ⟨rfl, rfl⟩

/-- Raising always goes on, with the fault taken. -/
theorem raise_next {c : FaultCode} {v : Option Slot} {i : Instr} {s t : State}
    (h : raise c v i s = .next t) : t = s.takeFault c v i.word := by
  cases h
  rfl

/-- A fault other than `KCFG` leaves `ERR[0]` as it was. -/
theorem kcfg_takeFault (s : State) (c : FaultCode) (v : Option Slot) (w : Word) (hc : c ≠ .kcfg) :
    (s.takeFault c v w).kcfg = s.kcfg := by
  simp only [State.kcfg, takeFault_err, errSet, BitVec.getLsbD_or]
  cases c <;> simp_all [FaultCode.num]

@[simp] theorem kcfg_setVoice (s : State) (v : Slot) (x : Voice) : (s.setVoice v x).kcfg = s.kcfg := rfl

@[simp] theorem kcfg_mapVoices (s : State) (f : Slot → Voice → Voice) :
    (s.mapVoices f).kcfg = s.kcfg := by
  simp [State.kcfg]

@[simp] theorem kcfg_consume (s : State) : s.consume.kcfg = s.kcfg := rfl

@[simp] theorem kcfg_setRdata (s : State) (d : Data) : (s.setRdata d).kcfg = s.kcfg := rfl

@[simp] theorem kcfg_mixOutputs (p : Site) (s : State) : (mixOutputs p s).kcfg = s.kcfg := rfl

@[simp] theorem site_setVoice (s : State) (v : Slot) (x : Voice) : (s.setVoice v x).site = s.site := rfl

@[simp] theorem site_mapVoices (s : State) (f : Slot → Voice → Voice) :
    (s.mapVoices f).site = s.site := by
  simp [State.site]

@[simp] theorem site_mixOutputs (p : Site) (s : State) : (mixOutputs p s).site = s.site := rfl

/-- The pseudocode of `MIX` writes the two outputs and nothing else, and reads neither (45_mixer R214). -/
theorem mixOutputs_frame (p : Site) (s : State) :
    mixOutputs p s = { s with outl := (mixOutputs p s).outl, outr := (mixOutputs p s).outr } := rfl

theorem mixSum_mixOutputs (p q : Site) (s : State) : mixSum p (mixOutputs q s) = mixSum p s := rfl

theorem mixOutputs_mixOutputs (p : Site) (s : State) :
    mixOutputs p (mixOutputs p s) = mixOutputs p s := rfl

/-! ## The step -/

/-- Everything a step can do: stay idle, fault an illegal word, or execute the decoded command. -/
theorem step_cases {s : State} {o : Out} (h : step s = o) :
    (s.cmds = [] ∧ o = .next s) ∨
    (∃ c rest e, s.cmds = c :: rest ∧ decode c = .error e ∧ o = illegalWord c.w s.consume) ∨
    (∃ c rest i, s.cmds = c :: rest ∧ decode c = .ok i ∧ o = exec i s.consume) := by
  subst h
  unfold step State.command?
  cases hc : s.cmds with
  | nil => exact .inl ⟨rfl, rfl⟩
  | cons c rest =>
    cases hd : decode c with
    | error e => exact .inr (.inl ⟨c, rest, e, rfl, hd, by simp [hd]⟩)
    | ok i => exact .inr (.inr ⟨c, rest, i, rfl, hd, by simp [hd]⟩)

/-! ## The envelope step -/

/-- The end-tick test may only move the phase to RELEASE. -/
theorem endTickTest_eq (n : BitVec 32) (x : Voice) :
    endTickTest n x = x ∨ endTickTest n x = { x with phase := .release } := by
  unfold endTickTest
  split
  · exact .inr rfl
  · exact .inl rfl

/-- A phase action writes the timer, the phase, the active flag and the volume, and nothing else. -/
theorem phaseAction_frame (num : Num) (x : Voice) :
    phaseAction num x =
      { x with
        timer := (phaseAction num x).timer
        phase := (phaseAction num x).phase
        active := (phaseAction num x).active
        vol := (phaseAction num x).vol } := by
  unfold phaseAction
  split
  · rfl
  · simp only [decayStep]
    split <;> rfl
  · rfl
  · simp only [releaseStep]
    split <;> rfl
  · rfl

/-- An envelope step writes those four registers and nothing else. -/
theorem envStep_frame (c : Cfg) (p : Site) (n : BitVec 32) (x : Voice) :
    envStep c p n x =
      { x with
        timer := (envStep c p n x).timer
        phase := (envStep c p n x).phase
        active := (envStep c p n x).active
        vol := (envStep c p n x).vol } := by
  have h : phaseAction c.num (endTickTest n x) =
      { x with
        timer := (phaseAction c.num (endTickTest n x)).timer
        phase := (phaseAction c.num (endTickTest n x)).phase
        active := (phaseAction c.num (endTickTest n x)).active
        vol := (phaseAction c.num (endTickTest n x)).vol } := by
    rcases endTickTest_eq n x with e | e
    · rw [e]
      exact phaseAction_frame c.num x
    · rw [e]
      exact phaseAction_frame c.num { x with phase := .release }
  simp only [envStep]
  split
  · rw [h]
  · exact h

/-- An LFO step writes the three LFO counters and nothing else. -/
theorem lfoStep_frame (s : State) (x : Voice) :
    lfoStep s x =
      { x with
        lfoCnt := (lfoStep s x).lfoCnt
        lfoDly := (lfoStep s x).lfoDly
        lfoOut := (lfoStep s x).lfoOut } := by
  simp only [lfoStep, lfoAdvance]
  split <;> rfl

/-! ## The read-out -/

/-- The chain writes the two sections and nothing else of the voice. -/
theorem bqChain_frame (num : Num) (p : Site) (voice : Voice) (x : Sample) :
    (bqChain num p voice x).2 =
      { voice with bq0 := (bqChain num p voice x).2.bq0, bq1 := (bqChain num p voice x).2.bq1 } := rfl

/-- The read-out writes `BL_ACC`, `BL_RD`, the drained slot, the sections and `VOUT`; the first three do
not depend on the filter. -/
theorem blRead_frame (num : Num) (p : Site) (bufsz : Nat) (voice : Voice) :
    blRead num p bufsz voice =
      { voice with
        blAcc := integrate num p voice
        blRd := (voice.blRd + 1) % bufsz
        buf := voice.buf.write num.s0 voice.blRd num.s0
        bq0 := (blRead num p bufsz voice).bq0
        bq1 := (blRead num p bufsz voice).bq1
        vout := (blRead num p bufsz voice).vout } := by
  simp only [blRead]
  split <;> rfl

/-- Without the filter the sections keep their state and `VOUT` is the integral (43_biquad R184). -/
theorem blRead_bypass (num : Num) (p : Site) (bufsz : Nat) (voice : Voice) (h : voice.bqen = false) :
    blRead num p bufsz voice =
      { drain num p bufsz voice with vout := integrate num p voice } := by
  have h' : (drain num p bufsz voice).bqen = false := h
  simp only [blRead, h']
  rfl

/-! ## Step insertion -/

/-- Convolving a kernel keeps the canonical form and the bounds of the buffer. -/
theorem addTaps_wf (num : Num) (p : Site) (bufsz rd off : Nat) (delta : Sample) (i : Nat) (taps : List Sample)
    (m : Memory) (hm : m.wf num.s0 = true) : (addTaps num p bufsz rd off delta i taps m).wf num.s0 = true := by
  induction taps generalizing i m with
  | nil => exact hm
  | cons tap taps ih => exact ih _ _ (write_wf _ _ hm)

theorem addTaps_inBounds (num : Num) (p : Site) (bufsz rd off : Nat) (delta : Sample) (i : Nat)
    (taps : List Sample) (m : Memory) (hb : 0 < bufsz) (hm : m.inBounds bufsz = true) :
    (addTaps num p bufsz rd off delta i taps m).inBounds bufsz = true := by
  induction taps generalizing i m with
  | nil => exact hm
  | cons tap taps ih => exact ih _ _ (write_inBounds _ (Nat.mod_lt _ hb) hm)

/-- A slot none of the kernel's taps lands in is left alone. -/
theorem read_addTaps_other (num : Num) (p : Site) (bufsz rd off : Nat) (delta : Sample) (i : Nat)
    (taps : List Sample) (m : Memory) (hm : m.wf num.s0 = true) (j : Nat)
    (hj : ∀ n, i ≤ n → n < i + taps.length → ringSlot bufsz rd off n ≠ j) :
    (addTaps num p bufsz rd off delta i taps m).read num.s0 j = m.read num.s0 j := by
  induction taps generalizing i m with
  | nil => rfl
  | cons tap taps ih =>
    simp only [List.length_cons] at hj
    simp only [addTaps]
    rw [ih _ _ (write_wf _ _ hm) (fun n h1 h2 => hj n (by omega) (by omega)), read_write _ _ _ hm]
    rw [if_neg (Ne.symm (hj i (by omega) (by omega)))]

/-! ## The counts of taps and slots -/

/-- A number is counted exactly when it lies below `q`. -/
theorem lt_countBelow (q : Rat) (n : Nat) : n < countBelow q ↔ (n : Rat) < q := by
  rw [countBelow, Int.lt_toNat, Rat.lt_ceil_iff]
  norm_cast

@[simp] theorem countBelow_natCast (n : Nat) : countBelow n = n :=
  le_antisymm (Nat.not_lt.1 fun h => by simp [lt_countBelow] at h)
    (Nat.not_lt.1 fun h => absurd ((lt_countBelow n _).2 (by exact_mod_cast h)) (lt_irrefl _))

/-- The count is the number itself where that is an integer and not negative. -/
theorem countBelow_cast {q : Rat} (hd : q.den = 1) (h0 : 0 ≤ q) : (countBelow q : Rat) = q := by
  obtain ⟨n, hn⟩ := Int.eq_ofNat_of_zero_le (Rat.num_nonneg.2 h0)
  have hq : q = (n : Rat) := by
    rw [← Rat.coe_int_num_of_den_eq_one hd, hn]
    norm_cast
  rw [hq, countBelow_natCast]

/-- The check of `KS`, in numbers (41_kernel_bank R145). -/
theorem ksOk_iff (c : Cfg) :
    ksOk c = true ↔ ∃ n : Int, c.ks = n ∧ 2 ≤ n ∧ n % 2 = 0 ∧ c.ks ≤ c.bufsz := by
  simp only [ksOk, Bool.and_eq_true, beq_iff_eq, decide_eq_true_eq]
  constructor
  · rintro ⟨⟨⟨hd, h2⟩, he⟩, hb⟩
    have hk := Rat.coe_int_num_of_den_eq_one hd
    exact ⟨c.ks.num, hk.symm, by rw [← hk] at h2; exact_mod_cast h2, he, hb⟩
  · rintro ⟨n, hn, h2, he, hb⟩
    exact ⟨⟨⟨by simp [hn], by rw [hn]; exact_mod_cast h2⟩, by simpa [hn] using he⟩, hb⟩

/-- The check for a power of two. -/
theorem isPowerOfTwo_iff (n : Nat) : isPowerOfTwo n = true ↔ ∃ k : Nat, n = 2 ^ k := by
  simp only [isPowerOfTwo, Bool.and_eq_true, bne_iff_ne, beq_iff_eq]
  constructor
  · exact fun h => ⟨_, h.2.symm⟩
  · rintro ⟨k, rfl⟩
    simp

/-- The check of `BUFSZ`, in numbers (41_kernel_bank R145). -/
theorem bufszOk_iff (c : Cfg) : bufszOk c = true ↔ (∃ k : Nat, c.bufsz = 2 ^ k) ∧ c.bufsz ≤ 65536 := by
  simp only [bufszOk, Bool.and_eq_true, beq_iff_eq, decide_eq_true_eq, isPowerOfTwo_iff]
  refine and_congr_left fun _ => ⟨?_, ?_⟩
  · rintro ⟨hd, k, hk⟩
    refine ⟨k, ?_⟩
    rw [← Rat.coe_int_num_of_den_eq_one hd, show c.bufsz.num = ((2 ^ k : Nat) : Int) by
      have : 0 < 2 ^ k := by positivity
      omega]
    push_cast
    rfl
  · rintro ⟨k, hk⟩
    have h : c.bufsz = ((2 ^ k : Nat) : Rat) := by rw [hk]; push_cast; rfl
    rw [h]
    exact ⟨Rat.den_natCast _, k, by rw [Rat.num_natCast, Int.toNat_natCast]⟩

/-- Under a well-formed configuration the counts are `KS` and `BUFSZ` (41_kernel_bank R145). -/
theorem counts_of_wellFormed {c : Cfg} (h : malformed c = false) :
    (nTaps c : Rat) = c.ks ∧ (nSlots c : Rat) = c.bufsz := by
  simp only [malformed, Bool.not_eq_false', Bool.and_eq_true, ksOk, bufszOk, beq_iff_eq,
    decide_eq_true_eq] at h
  obtain ⟨⟨⟨⟨⟨⟨hk1, hk2⟩, -⟩, hkb⟩, ⟨⟨hb1, -⟩, -⟩⟩, -⟩, -⟩ := h
  exact ⟨countBelow_cast hk1 (by linarith), countBelow_cast hb1 (by linarith)⟩

/-- The kernel a phase has is `KS` taps long. -/
theorem kernel_length {c : Cfg} {ph : BitVec 6} {taps : List Sample} (h : kernel c ph = some taps) :
    taps.length = nTaps c := by
  unfold kernel at h
  split at h
  · split at h
    · cases h
      assumption
    · cases h
  · cases h

/-- A well-formed configuration has a kernel for every phase (41_kernel_bank R141). -/
theorem kernel_of_wellFormed {c : Cfg} (h : malformed c = false) (ph : BitVec 6) :
    ∃ taps, kernel c ph = some taps := by
  have hk : kbankOk c = true := by
    simp only [malformed, Bool.not_eq_false', Bool.and_eq_true] at h
    exact h.2
  simp only [kbankOk, Bool.and_eq_true, beq_iff_eq, List.all_eq_true] at hk
  have hlt : ph.toNat < c.kbank.length := by
    have := ph.isLt
    rw [hk.1]
    exact this
  refine ⟨c.kbank[ph.toNat], ?_⟩
  have hl : c.kbank[ph.toNat].length = nTaps c := by
    have := (hk.2 _ (List.getElem_mem hlt)).1
    rw [← (counts_of_wellFormed h).1] at this
    exact_mod_cast this
  simp [kernel, hlt, hl]

/-! ## NaN patterns -/

/-- The free value of an operation that yields a NaN is a NaN, and nothing else is known of it. -/
theorem isNaN_nan (p : Site) : F64.isNaN (F64.nan p) = true := by
  unfold F64.nan
  split
  · assumption
  · decide

end Sys2Proof.Machine
end

