-- ==== Sys2Proof/Laws/PerInstr.lean ====
section
/-! SUPPORT. Statements made for all commands, one lemma per constructor: the encoder puts every command
into the row of its own opcode, with every must-be-0 bit clear. -/

/-- The word of a command selects the row of its opcode (30_encoding R83). -/
def Sys2Proof.Laws.WordSelectsRow.Statement (i : Sys2Proof.Instr) : Prop :=
  i.op.row.selects i.word = true

namespace Sys2Proof.Laws

theorem WordSelectsRow.nop :
    WordSelectsRow.Statement (.nop) := by
  apply selects_of_bits
  simp only [Instr.op, Op.row, Instr.word, getLsbD_toWord, BitVec.getLsbD_append]
  intro i hi
  interval_cases i <;> simp

theorem WordSelectsRow.noteon (vel : BitVec 7) (mode : BitVec 2) (psg held bqen : Bool) (atk : BitVec 8)
    (dec rel : BitVec 16) (sus : BitVec 24) :
    WordSelectsRow.Statement (.noteon vel mode psg held bqen atk dec rel sus) := by
  apply selects_of_bits
  simp only [Instr.op, Op.row, Instr.word, bit1, getLsbD_toWord, BitVec.getLsbD_append]
  intro i hi
  interval_cases i <;> simp

theorem WordSelectsRow.release (v : Slot) :
    WordSelectsRow.Statement (.release v) := by
  apply selects_of_bits
  simp only [Instr.op, Op.row, Instr.word, getLsbD_toWord, BitVec.getLsbD_append]
  intro i hi
  interval_cases i <;> simp

theorem WordSelectsRow.cut (v : Slot) :
    WordSelectsRow.Statement (.cut v) := by
  apply selects_of_bits
  simp only [Instr.op, Op.row, Instr.word, getLsbD_toWord, BitVec.getLsbD_append]
  intro i hi
  interval_cases i <;> simp

theorem WordSelectsRow.setend (v : Slot) (endTick mbz : BitVec 32) :
    WordSelectsRow.Statement (.setend v endTick mbz) := by
  apply selects_of_bits
  simp only [Instr.op, Op.row, Instr.word, getLsbD_toWord, BitVec.getLsbD_append]
  intro i hi
  interval_cases i <;> simp

theorem WordSelectsRow.tick :
    WordSelectsRow.Statement (.tick) := by
  apply selects_of_bits
  simp only [Instr.op, Op.row, Instr.word, getLsbD_toWord, BitVec.getLsbD_append]
  intro i hi
  interval_cases i <;> simp

theorem WordSelectsRow.bstep (v : Slot) (off : BitVec 10) (ph : BitVec 6) (x : Sample) :
    WordSelectsRow.Statement (.bstep v off ph x) := by
  apply selects_of_bits
  simp only [Instr.op, Op.row, Instr.word, getLsbD_toWord, BitVec.getLsbD_append]
  intro i hi
  interval_cases i <;> simp

theorem WordSelectsRow.bread (v : Slot) :
    WordSelectsRow.Statement (.bread v) := by
  apply selects_of_bits
  simp only [Instr.op, Op.row, Instr.word, getLsbD_toWord, BitVec.getLsbD_append]
  intro i hi
  interval_cases i <;> simp

theorem WordSelectsRow.vdirect (v : Slot) (x : Sample) :
    WordSelectsRow.Statement (.vdirect v x) := by
  apply selects_of_bits
  simp only [Instr.op, Op.row, Instr.word, getLsbD_toWord, BitVec.getLsbD_append]
  intro i hi
  interval_cases i <;> simp

theorem WordSelectsRow.bqcoef (v : Slot) (stage : BitVec 1) (k : BitVec 3) (x : Sample) :
    WordSelectsRow.Statement (.bqcoef v stage k x) := by
  apply selects_of_bits
  simp only [Instr.op, Op.row, Instr.word, getLsbD_toWord, BitVec.getLsbD_append]
  intro i hi
  interval_cases i <;> simp

theorem WordSelectsRow.lfocfg (type : BitVec 2) (depth range speed : BitVec 8) (delay : BitVec 16)
    (mbz : BitVec 24) :
    WordSelectsRow.Statement (.lfocfg type depth range speed delay mbz) := by
  apply selects_of_bits
  simp only [Instr.op, Op.row, Instr.word, getLsbD_toWord, BitVec.getLsbD_append]
  intro i hi
  interval_cases i <;> simp

theorem WordSelectsRow.vgain (v : Slot) (ch : BitVec 1) (x : Sample) :
    WordSelectsRow.Statement (.vgain v ch x) := by
  apply selects_of_bits
  simp only [Instr.op, Op.row, Instr.word, getLsbD_toWord, BitVec.getLsbD_append]
  intro i hi
  interval_cases i <;> simp

theorem WordSelectsRow.mgain (ch : BitVec 1) (x : Sample) :
    WordSelectsRow.Statement (.mgain ch x) := by
  apply selects_of_bits
  simp only [Instr.op, Op.row, Instr.word, getLsbD_toWord, BitVec.getLsbD_append]
  intro i hi
  interval_cases i <;> simp

theorem WordSelectsRow.mix :
    WordSelectsRow.Statement (.mix) := by
  apply selects_of_bits
  simp only [Instr.op, Op.row, Instr.word, getLsbD_toWord, BitVec.getLsbD_append]
  intro i hi
  interval_cases i <;> simp

theorem WordSelectsRow.frame :
    WordSelectsRow.Statement (.frame) := by
  apply selects_of_bits
  simp only [Instr.op, Op.row, Instr.word, getLsbD_toWord, BitVec.getLsbD_append]
  intro i hi
  interval_cases i <;> simp

theorem WordSelectsRow.rdreg (v : Slot) (r : BitVec 8) :
    WordSelectsRow.Statement (.rdreg v r) := by
  apply selects_of_bits
  simp only [Instr.op, Op.row, Instr.word, getLsbD_toWord, BitVec.getLsbD_append]
  intro i hi
  interval_cases i <;> simp

theorem WordSelectsRow.rdbuf (v : Slot) (idx : BitVec 16) :
    WordSelectsRow.Statement (.rdbuf v idx) := by
  apply selects_of_bits
  simp only [Instr.op, Op.row, Instr.word, getLsbD_toWord, BitVec.getLsbD_append]
  intro i hi
  interval_cases i <;> simp

theorem WordSelectsRow.rdk (ph : BitVec 6) (tap : BitVec 16) :
    WordSelectsRow.Statement (.rdk ph tap) := by
  apply selects_of_bits
  simp only [Instr.op, Op.row, Instr.word, getLsbD_toWord, BitVec.getLsbD_append]
  intro i hi
  interval_cases i <;> simp

theorem WordSelectsRow.rdrom (tbl : BitVec 2) (idx : BitVec 16) :
    WordSelectsRow.Statement (.rdrom tbl idx) := by
  apply selects_of_bits
  simp only [Instr.op, Op.row, Instr.word, getLsbD_toWord, BitVec.getLsbD_append]
  intro i hi
  interval_cases i <;> simp

end Sys2Proof.Laws
end

