-- ==== Sys2Proof/Machine/KernelBank.lean ====
section
/-! DEFINITION. The reference derivation of `KBANK` (41_kernel_bank R146 to R149), informative: it binds
no model (U19), no command calls it, and the machine takes `KBANK` as a table (log 18). -/

namespace Sys2Proof.Machine

/-- What the derivation leaves open (U19): the functions it names whose values the spec does not fix in
`NUM`, the window, and the length of the transform. -/
structure KernelMath where
  /-- `sinc(u) = sin(pi * u) / (pi * u)`, `sinc(0) = 1`. -/
  sinc : Sample → Sample
  /-- `WIN`, on `[-1, 1]`. -/
  win : Sample → Sample
  /-- `L`, at least `64 * KS`. -/
  len : Nat
  /-- `IDFT_L(log |DFT_L(M)|)`, the real cepstrum. -/
  cepstrum : List Sample → List Sample
  /-- `real(IDFT_L(exp(DFT_L(c'))))`. -/
  rebuild : List Sample → List Sample

/-- `x = m/64 - KS/2`, one quotient, exact under binary64 (41_kernel_bank R146). -/
def tapTime (num : Num) (p : Site) (ks m : Nat) : Sample :=
  num.div p (num.ofInt ((m : Int) - 32 * ks)) (num.ofInt np)

/-- `M[m] = FR * sinc(FR * x) * WIN(x / (KS/2))` for the `64 * KS` points (41_kernel_bank R146). -/
def masterKernel (k : KernelMath) (num : Num) (p : Site) (fr : Sample) (ks : Nat) : List Sample :=
  (List.range (np * ks)).map fun m =>
    let x := tapTime num (4 :: m :: p) ks m
    let q := m :: p
    num.mul (1 :: q) (num.mul (0 :: q) fr (k.sinc (num.mul (2 :: q) fr x)))
      (k.win (num.div (3 :: q) x (num.ofInt ((ks / 2 : Nat) : Int))))

/-- The causal folding of a cepstrum of length `len`: the ends kept, the first half doubled, the second
half dropped (41_kernel_bank R147). -/
def foldCausal (num : Num) (p : Site) (len : Nat) (c : List Sample) : List Sample :=
  c.zipIdx.map fun (x : Sample × Nat) =>
    if x.2 = 0 ∨ 2 * x.2 = len then x.1
    else if 2 * x.2 < len then num.mul (x.2 :: p) (num.ofInt 2) x.1
    else num.s0

/-- The minimum-phase conversion, truncated to the points of the master kernel (41_kernel_bank R147). -/
def minimumPhase (k : KernelMath) (num : Num) (p : Site) (ks : Nat) (master : List Sample) : List Sample :=
  let padded := master ++ List.replicate (k.len - master.length) num.s0
  (k.rebuild (foldCausal num p k.len (k.cepstrum padded))).take (np * ks)

/-- The polyphase split of a master kernel: `h[p][i] = M[64 * i - p]`, 0 below its start (41_kernel_bank
R148). -/
def polyphase (num : Num) (ks : Nat) (master : List Sample) : List (List Sample) :=
  (List.range np).map fun p =>
    (List.range ks).map fun i => if p ≤ np * i then master.getD (np * i - p) num.s0 else num.s0

/-- The sum of the taps of one phase, in ascending order from `S0` (log 18). -/
def tapSum (num : Num) (p : Site) (taps : List Sample) : Sample :=
  taps.zipIdx.foldl (fun sum (tap : Sample × Nat) => num.add (0 :: tap.2 :: p) sum tap.1) num.s0

/-- Each tap of one phase divided by their sum (41_kernel_bank R149). -/
def normalisePhase (num : Num) (p : Site) (taps : List Sample) : List Sample :=
  taps.zipIdx.map fun tap => num.div (1 :: tap.2 :: p) tap.1 (tapSum num p taps)

/-- `KBANK` from the split kernels, each phase normalised where `NORM` is set (41_kernel_bank R149). -/
def bankOf (num : Num) (p : Site) (norm : Bool) (h : List (List Sample)) : List (List Sample) :=
  if norm then h.zipIdx.map fun row => normalisePhase num (row.2 :: p) row.1 else h

/-- The whole derivation from the four kernel parameters (41_kernel_bank R146 to R149). -/
def deriveBank (k : KernelMath) (p : Site) (c : Cfg) : List (List Sample) :=
  let master := masterKernel k c.num (0 :: p) c.fr (nTaps c)
  let shaped := if c.mp then minimumPhase k c.num (1 :: p) (nTaps c) master else master
  bankOf c.num (2 :: p) c.norm (polyphase c.num (nTaps c) shaped)

end Sys2Proof.Machine
end

