-- ==== Sys2Proof/Machine/Pseudo.lean ====
section
/-! DEFINITION. The pseudo-instructions (30_encoding R88): the commands the assembler expands each to.
The block never sees them. -/

namespace Sys2Proof.Machine

/-- `CUTALL`: sixteen cuts, ascending. -/
def cutAll : List Instr := (List.range 16).map fun v => .cut (BitVec.ofNat 4 v)

/-- `BQIDENT v`: the identity coefficients of stage 0, then of stage 1.  DESIGN CHOICE: the literals 1.0
and 0.0 are `S1` and `S0` of `NUM`, where the spec gives the bits of literals for binary64 only (log 23). -/
def bqIdent (num : Num) (v : Slot) : List Instr :=
  [0, 1].flatMap fun stage : BitVec 1 =>
    [.bqcoef v stage 0 num.s1, .bqcoef v stage 1 num.s0, .bqcoef v stage 2 num.s0,
      .bqcoef v stage 3 num.s0, .bqcoef v stage 4 num.s0]

/-- `BSTEPT v, T, value`: `T` split into `T >> 6` and `T & 63`. -/
def bstept (v : Slot) (t : BitVec 16) (x : Sample) : List Instr :=
  [.bstep v (t.extractLsb' 6 10) (t.extractLsb' 0 6) x]

/-- `TICKS n`. -/
def ticks (n : Nat) : List Instr := List.replicate n .tick

/-- `NEXTSAMPLE`: `FRAME`, then the reads of `OUTL` and `OUTR`. -/
def nextSample : List Instr := [.frame, .rdreg 0 0x1A, .rdreg 0 0x1B]

end Sys2Proof.Machine
end

