-- ==== Sys2Proof/Tests/Slice0.lean ====
section
/-! SUPPORT. The tests of the model, each on one word or one step, their expected values taken from the
vectors of spec/95_test_vectors.md; and for each statement with hypotheses a witness that meets them. -/

namespace Sys2Proof.Tests

open Sys2Proof Sys2Proof.Machine

-- One test at a time: each runs in the kernel, and a thread for each would not fit the check's memory.
set_option Elab.async false

/-! ## Ill-formed commands (30_encoding R85 c) -/

theorem test_wellFormed_noteonMode :
    (Instr.noteon 127 3 false false false 0 0 0 0).wellFormed = false ∧
    (Instr.noteon 127 2 false false false 0 0 0 0).wellFormed = true := by decide

theorem test_wellFormed_bqcoefK :
    (∀ k : BitVec 3, (Instr.bqcoef 0 0 k 0).wellFormed = decide (k ∈ [0, 1, 2, 3, 4])) := by decide

theorem test_wellFormed_lfocfgType :
    (Instr.lfocfg 3 0 0 0 0 0).wellFormed = false ∧
    (Instr.lfocfg 2 0 0 0 0 0).wellFormed = true := by decide

/-! ## Decoding: the words of 95_test_vectors section 3.1, one per constructor at least -/

theorem test_decode_nop : decode ⟨0x00000000, 0⟩ = .ok .nop := by decide +kernel

theorem test_decode_noteon :
    decode ⟨0x0100027F, 0xFFF4480032000A80⟩ = .ok (.noteon 127 2 false false false 128 10 50 0xFFF448) ∧
    decode ⟨0x01007064, 0xFE9680FFFFFFFF00⟩ = .ok (.noteon 100 0 true true true 0 65535 65535 0xFE9680) ∧
    decode ⟨0x01002140, 0xFFFFF90008000605⟩ = .ok (.noteon 64 1 false true false 5 6 8 0xFFFFF9) := by
  decide +kernel

theorem test_decode_release : decode ⟨0x02000000, 0⟩ = .ok (.release 0) := by decide +kernel

theorem test_decode_cut :
    decode ⟨0x03300000, 0⟩ = .ok (.cut 3) ∧ decode ⟨0x03F00000, 0⟩ = .ok (.cut 15) := by decide +kernel

theorem test_decode_setend :
    decode ⟨0x04F00000, 0x00000000FFFFFFFF⟩ = .ok (.setend 15 0xFFFFFFFF 0) ∧
    decode ⟨0x04000000, 0x0000000100000000⟩ = .ok (.setend 0 0 1) := by decide +kernel

theorem test_decode_tick : decode ⟨0x05000000, 0⟩ = .ok .tick := by decide +kernel

theorem test_decode_bstep :
    decode ⟨0x0850013F, 0xBFD0000000000000⟩ = .ok (.bstep 5 4 63 0xBFD0000000000000) ∧
    decode ⟨0x08F0FFFF, 0⟩ = .ok (.bstep 15 1023 63 0) := by decide +kernel

theorem test_decode_bread : decode ⟨0x09700000, 0⟩ = .ok (.bread 7) := by decide +kernel

theorem test_decode_vdirect :
    decode ⟨0x0A200000, 0xBFE0000000000000⟩ = .ok (.vdirect 2 0xBFE0000000000000) := by decide +kernel

theorem test_decode_bqcoef :
    decode ⟨0x0C000013, 0xBFE0000000000000⟩ = .ok (.bqcoef 0 1 3 0xBFE0000000000000) ∧
    decode ⟨0x0C400014, 0⟩ = .ok (.bqcoef 4 1 4 0) := by decide +kernel

theorem test_decode_lfocfg :
    decode ⟨0x10000000, 0x0000000002200240⟩ = .ok (.lfocfg 0 64 2 32 2 0) ∧
    decode ⟨0x10000001, 0x0000000005107F7F⟩ = .ok (.lfocfg 1 127 127 16 5 0) := by decide +kernel

theorem test_decode_vgain :
    decode ⟨0x14300001, 0x3FD0000000000000⟩ = .ok (.vgain 3 1 0x3FD0000000000000) := by decide +kernel

theorem test_decode_mgain :
    decode ⟨0x15000000, 0x3FE0000000000000⟩ = .ok (.mgain 0 0x3FE0000000000000) := by decide +kernel

theorem test_decode_mix : decode ⟨0x16000000, 0⟩ = .ok .mix := by decide +kernel

theorem test_decode_frame : decode ⟨0x17000000, 0⟩ = .ok .frame := by decide +kernel

theorem test_decode_rdreg :
    decode ⟨0x20F00077, 0⟩ = .ok (.rdreg 15 0x77) ∧ decode ⟨0x2050001A, 0⟩ = .ok (.rdreg 5 0x1A) := by
  decide +kernel

theorem test_decode_rdbuf : decode ⟨0x21A0FFFF, 0⟩ = .ok (.rdbuf 10 0xFFFF) := by decide +kernel

theorem test_decode_rdk : decode ⟨0x223F0003, 0⟩ = .ok (.rdk 63 3) := by decide +kernel

theorem test_decode_rdrom : decode ⟨0x230102D3, 0⟩ = .ok (.rdrom 1 723) := by decide +kernel

/-- 95_test_vectors section 3.3: words that select no row. -/
theorem test_decode_rejects :
    ([0x06000000, 0x0B000000, 0x1F000000, 0x24000000, 0xFF000000, 0x00000001, 0x17000100, 0x01000080,
      0x01000400, 0x01000800, 0x01008000, 0x01100000, 0x02000001, 0x08010000, 0x08080000, 0x0C000008,
      0x0C000020, 0x10000004, 0x14000002, 0x15100000, 0x20000100, 0x22400000, 0x22800000, 0x23040000] :
        List Word).all (fun w => !(decode ⟨w, 0⟩).isOk) = true := by decide +kernel

/-- The record of the first `NOTEON` of 95_test_vectors section 3.1, byte for byte. -/
theorem test_record_noteon :
    (Command.mk 0x0100027F 0xFFF4480032000A80).record =
      [0x7F, 0x02, 0x00, 0x01, 0x80, 0x0A, 0x00, 0x32, 0x00, 0x48, 0xF4, 0xFF] := by decide +kernel

theorem test_decodeBytes_noteon :
    decodeBytes [0x7F, 0x02, 0x00, 0x01, 0x80, 0x0A, 0x00, 0x32, 0x00, 0x48, 0xF4, 0xFF] =
      .ok (.noteon 127 2 false false false 128 10 50 0xFFF448, []) := by decide +kernel

/-! ## The small states of the tests -/

/-- What a command leaves, or the state it was given where it does not go on. -/
def after (i : Instr) (s : State) : State :=
  match exec i s with
  | .next t => t
  | .fault _ => s
  | .refused _ => s

def goesOn : Out → Bool
  | .next _ => true
  | .fault _ => false
  | .refused _ => false

theorem next_of_goesOn {o : Out} (h : goesOn o = true) : ∃ t, o = .next t := by
  cases o with
  | next t => exact ⟨t, rfl⟩
  | fault _ => cases h
  | refused _ => cases h

theorem exec_after {i : Instr} {s : State} (h : goesOn (exec i s) = true) : exec i s = .next (after i s) := by
  obtain ⟨t, ht⟩ := next_of_goesOn h
  simp [after, ht]

/-- A voice of velocity 127 in a phase, with its volume the one of its timer. -/
def playing (phase : Phase) (timer : Int) : Voice :=
  { Voice.reset .binary64 with
    active := true, mode := .blstep, bqen := true, vel := 127, phase := phase
    timer := BitVec.ofInt 32 timer, vol := calcVol resetCfg [] 127 timer
    atk := 255, dec := 1000, sus := BitVec.ofInt 32 (-3000), rel := 30000 }

/-- The reset machine with a voice in slot 0. -/
def withVoice (x : Voice) : State := State.reset.setVoice 0 x

/-- The reset machine with one command presented. -/
def presenting (w : Word) (d : Data) : State := { State.reset with cmds := [⟨w, d⟩] }

/-- `TBAD` of 95_test_vectors section 2 in kind: a filter ratio of 0 is malformed (41_kernel_bank R145). -/
def badCfg : Cfg := { resetCfg with fr := 0 }

def refusing : State := State.resetOf badCfg

/-! ## One step of each command -/

/-- 46_system R230. -/
theorem test_nop : exec .nop refusing = .next refusing := rfl

/-- 95_test_vectors section 5.4, fourth row. -/
theorem test_noteon_starts :
    let t := after (.noteon 100 2 true true true 0 65535 65535 0xFE9680) State.reset
    let x := t.voice 0
    x.flags = 0x2F ∧ x.gen = 1 ∧ x.vel = 0x64 ∧ x.phase = .attack ∧ x.timer = 0 ∧
    x.sus.toInt = -92544 ∧ x.vol = 0x3FDB366CD9B366CE ∧
    t.alloc = 1 ∧ t.lastslot = 0 ∧ t.rdata = 0 ∧ t.activeMask = 1 := by decide +kernel

/-- 95_test_vectors section 5.4, first row: `sus = +1`. -/
theorem test_noteon_operand :
    let t := after (.noteon 127 0 false false false 0 0 0 1) State.reset
    t.err = 4 ∧ t.errv = 0 ∧ t.errw = 0x0100007F ∧ t.alloc = 0 := by decide +kernel

/-- 95_test_vectors section 5.2, L6: only the phase changes. -/
theorem test_release :
    let x := playing .attack (-46272)
    (after (.release 0) (withVoice x)).voice 0 = { x with phase := .release } := by decide +kernel

theorem test_release_inactive :
    (after (.release 1) State.reset).voice 1 = Voice.reset .binary64 ∧ (after (.release 1) State.reset).err = 0 := by
  decide +kernel

/-- 40_envelope R112, R114, and 95_test_vectors P3: `ALLOC` does not move. -/
theorem test_cut :
    let t := after (.cut 0) (withVoice (playing .sustain (-3000)))
    (t.voice 0).active = false ∧ (t.voice 0).phase = .idle ∧ (t.voice 0).vol = 0 ∧
    (t.voice 0).timer.toInt = -3000 ∧ t.alloc = 0 := by decide +kernel

/-- 95_test_vectors section 11.1, both rows. -/
theorem test_setend :
    (after (.setend 0 0 1) State.reset).err = 4 ∧ (after (.setend 0 0 1) State.reset).errv = 1 ∧
    ((after (.setend 2 0xFFFFFFFF 0) State.reset).voice 2).endTick = 0xFFFFFFFF := by decide +kernel

/-- 95_test_vectors section 5.2, L1, tick 7: the end-tick test and one Release step in the same tick. -/
theorem test_tick_endTick :
    let x := { playing .sustain (-3000) with endTick := 6 }
    let t := after .tick { withVoice x with tickcnt := 6 }
    (t.voice 0).phase = .release ∧ (t.voice 0).timer.toInt = -33000 ∧
    (t.voice 0).vol = 0x3FA468D1A3468D1A ∧ t.tickcnt = 7 := by decide +kernel

/-- 95_test_vectors section 8.2, R-e, tick 4. -/
theorem test_tick_lfo :
    let x := { playing .sustain 0 with sus := 0, lfoDly := 3 }
    let t := after .tick
      { withVoice x with lfoDepth := 127, lfoRange := 127, lfoSpeed := 16, lfoDelay := 3 }
    (t.voice 0).lfoCnt = 1024 ∧ (t.voice 0).lfoDly = 3 ∧ (t.voice 0).lfoOut = 1008 := by decide +kernel

/-- 95_test_vectors section 6.3, command 4: the kernel wraps from slot 7 to slot 0. -/
theorem test_bstep_wraps :
    let x := { playing .attack 0 with
      blRd := 2, blAcc := 0x3FE8000000000000, blLast := F64.s1, buf := [(2, 0x3FD0000000000000)] }
    ((after (.bstep 0 4 48 0xBFF0000000000000) (withVoice x)).voice 0).buf =
      [(0, 0xBFF8000000000000), (2, 0x3FD0000000000000), (7, 0xBFE0000000000000)] := by decide +kernel

/-- 95_test_vectors section 6.4, command 5. -/
theorem test_bstep_range :
    let t := after (.bstep 0 5 0 0x4008000000000000) (withVoice (playing .attack 0))
    t.err = 0x10 ∧ t.errv = 1 ∧ t.errw = 0x08000140 ∧ (t.voice 0).blLast = 0 := by decide +kernel

/-- 95_test_vectors section 7.2, read 3: two stages, each the difference equation. -/
theorem test_bread_filter :
    let half : Sample := 0x3FE0000000000000
    let q0 := { Biquad.reset .binary64 with b0 := half, b1 := half, x1 := F64.s1, y1 := half }
    let q1 := { Biquad.reset .binary64 with a1 := 0xBFE0000000000000, x1 := half, y1 := half }
    let x := { playing .attack 0 with blRd := 2, blAcc := F64.s1, blLast := F64.s1, bq0 := q0, bq1 := q1 }
    let y := (after (.bread 0) (withVoice x)).voice 0
    y.vout = 0x3FF4000000000000 ∧ y.blRd = 3 ∧ y.bq1.x2 = half ∧ y.bq1.y1 = 0x3FF4000000000000 := by
  decide +kernel

/-- 95_test_vectors P5, command 12. -/
theorem test_bread_mode :
    (after (.bread 7) State.reset).err = 8 ∧ (after (.bread 7) State.reset).errv = 0x80 := by decide +kernel

/-- 95_test_vectors section 6.5, and P5 command 10. -/
theorem test_vdirect :
    ((after (.vdirect 3 0x3FE0000000000000) State.reset).voice 3).vout = 0x3FE0000000000000 ∧
    (after (.vdirect 0 0xFFF0000000000000) State.reset).err = 4 := by decide +kernel

/-- 43_biquad R181, the example. -/
theorem test_bqcoef :
    ((after (.bqcoef 0 1 3 0xBFE0000000000000) State.reset).voice 0).readReg (.coef1 3) =
      0xBFE0000000000000 := by decide +kernel

/-- 95_test_vectors section 11.2: `ILLEGAL` comes before `OPERAND`. -/
theorem test_bqcoef_illegal :
    (after (.bqcoef 0 0 5 0x7FF8000000000000) State.reset).err = 2 ∧
    (after (.bqcoef 0 0 5 0x7FF8000000000000) State.reset).errv = 0 := by decide +kernel

/-- 44_lfo R191, the example. -/
theorem test_lfocfg :
    let t := after (.lfocfg 0 64 2 32 2 0) State.reset
    t.lfoType = .pitch ∧ t.lfoDepth = 64 ∧ t.lfoRange = 2 ∧ t.lfoSpeed = 32 ∧ t.lfoDelay = 2 := by
  decide +kernel

/-- 45_mixer R212, the example. -/
theorem test_vgain :
    let t := after (.vgain 3 1 0x3FD0000000000000) State.reset
    (t.voice 3).vgr = 0x3FD0000000000000 ∧ (t.voice 3).vgl = F64.s1 := by decide +kernel

/-- 45_mixer R213, the example. -/
theorem test_mgain :
    let t := after (.mgain 0 0x3FE0000000000000) State.reset
    t.mgl = 0x3FE0000000000000 ∧ t.mgr = F64.s1 := by decide +kernel

/-- 45_mixer R214, the example. -/
theorem test_mix :
    let v0 := { playing .attack 0 with vout := 0x3FE8000000000000 }
    let v1 := { playing .attack 0 with vout := 0xBFE0000000000000, vol := 0x3FE0000000000000, vgr := F64.s0 }
    let t := after .mix ((withVoice v0).setVoice 1 v1)
    t.outl = 0x3FE0000000000000 ∧ t.outr = 0x3FE8000000000000 := by decide +kernel

/-- 95_test_vectors P2, `FRAME` 2. -/
theorem test_frame :
    let half : Sample := 0x3FE0000000000000
    let x := { playing .attack 0 with
      blRd := 1, buf := [(1, 0x3FE8000000000000), (2, 0x3FD0000000000000)], blLast := F64.s1
      vgr := 0x3FD0000000000000, bq0 := { Biquad.reset .binary64 with b0 := half, b1 := half } }
    let t := after .frame { withVoice x with mgl := half }
    t.outl = 0x3FC8000000000000 ∧ t.outr = 0x3FB8000000000000 ∧
    (t.voice 0).blAcc = 0x3FE8000000000000 ∧ (t.voice 0).blRd = 2 := by decide +kernel

/-- 46_system R231, the examples: `ENV_TIMER = -92544`, and a global register with `v` not 0. -/
theorem test_rdreg :
    (after (.rdreg 0 0x44) (withVoice (playing .attack (-92544)))).rdata = 0xFFFFFFFFFFFE9680 ∧
    (after (.rdreg 5 0x1A) State.reset).err = 4 ∧ (after (.rdreg 5 0x1A) State.reset).errv = 0 := by
  decide +kernel

/-- 46_system R232, the example, and the bound. -/
theorem test_rdbuf :
    let s := withVoice { playing .attack 0 with buf := [(1, 0x3FE8000000000000), (2, 0x3FD0000000000000)] }
    (after (.rdbuf 0 1) s).rdata = 0x3FE8000000000000 ∧ (after (.rdbuf 0 8) s).err = 4 := by decide +kernel

/-- 46_system R233, the example, and the bound. -/
theorem test_rdk :
    (after (.rdk 16 2) State.reset).rdata = 0x3FD0000000000000 ∧
    (after (.rdk 0 4) State.reset).err = 4 := by decide +kernel

/-- 46_system R234, the example, and `tbl = 3`. -/
theorem test_rdrom :
    (after (.rdrom 2 8) State.reset).rdata = 32 ∧ (after (.rdrom 3 0) State.reset).err = 4 := by
  decide +kernel

/-- 95_test_vectors section 4: strictly below each threshold. -/
theorem test_calcVol :
    calcVol resetCfg [] 127 (-7680) = 0x3FED3A74E9D3A74F ∧
    calcVol resetCfg [] 127 (-7681) = 0x3FDD3A74E9D3A74F ∧
    calcVol resetCfg [] 127 (-15361) = 0x3FCA74E9D3A74E9D ∧
    calcVol resetCfg [] 127 (-30721) = 0x3FA52A54A952A54B := by decide +kernel

/-- 41_kernel_bank R150: the taps of `LIN4` are the exact sixty-fourths. -/
theorem test_sixtyFourths : ∀ n ∈ List.range 65,
    F64.scaled (sixtyFourths n) * 64 = (n : Int) * (F64.unit : Int) := by decide +kernel

/-- 41_kernel_bank R148: kernel 1 of a master of 128 points is it delayed by a sixty-fourth of a sample. -/
theorem test_polyphase :
    (polyphase .binary64 2 ((List.range 128).map fun m => BitVec.ofNat 64 (m + 1)))[1]? = some [0, 64] := by
  decide +kernel

/-- 30_encoding R88. -/
theorem test_pseudo : bstept 3 0x013F 0 = [.bstep 3 4 63 0] ∧ bqIdent .binary64 2 =
      [.bqcoef 2 0 0 0x3FF0000000000000, .bqcoef 2 0 1 0, .bqcoef 2 0 2 0, .bqcoef 2 0 3 0, .bqcoef 2 0 4 0,
        .bqcoef 2 1 0 0x3FF0000000000000, .bqcoef 2 1 1 0, .bqcoef 2 1 2 0, .bqcoef 2 1 3 0,
        .bqcoef 2 1 4 0] ∧
    cutAll.getLast? = some (.cut 15) := by decide +kernel

/-- 95_test_vectors section 8.1. -/
theorem test_sinIdx :
    [0, 1, 31, 32, 33, 63, 64, 65, 95, 96, 97, 127].map (sinIdx resetCfg) =
      [0, 4, 124, 127, 124, 4, 0, -4, -124, -127, -124, -4] := by decide +kernel

/-- 95_test_vectors section 11.3, row 3. -/
theorem test_refusal :
    execNoteon 127 2 false false false 0 0 0 0 refusing = .next refusing :=
  unlessKcfg_kcfg (s := refusing) (by decide +kernel) _

/-- 95_test_vectors section 11.3, row 16: decoding still faults, and `ERR[0]` stays. -/
theorem test_illegal_underKcfg :
    let t := match step { refusing with cmds := [⟨0x05000001, 0⟩] } with
      | .next t => t
      | _ => refusing
    t.err = 3 ∧ t.errv = 0 ∧ t.errw = 0x05000001 ∧ t.rdata = 0 ∧ t.pos = 1 := by decide +kernel

/-- 41_kernel_bank R145, 70_reset_and_hazards R271: a `KS` that is no integer sets `KCFG` at reset, and a
command is then refused. -/
theorem test_fractionalKs :
    let s := State.resetOf { resetCfg with ks := 5 / 2 }
    s.err = 1 ∧ (after .tick s).tickcnt = 0 ∧ (after .tick s).err = 1 := by decide +kernel

/-- 41_kernel_bank R145: each condition one step beyond its edge is malformed, and at its edge is not. -/
theorem test_malformed :
    let c := resetCfg
    [{ c with ks := 0 }, { c with ks := 3 }, { c with ks := 5 / 2 }, { c with ks := -4 },
      { c with ks := 4 + 1 / 1000 }, { c with ks := 10 }, { c with bufsz := 2 }, { c with bufsz := 17 / 2 },
      { c with bufsz := -8 }, { c with bufsz := 12 },
      { c with bufsz := 131072 }, { c with fr := 0x3FF0000000000001 }, { c with fr := 0x8000000000000001 },
      { c with fr := 0x7FF8000000000000 }, { c with kbank := c.kbank.tail },
      { c with kbank := [0, 0, 0, F64.inf false] :: c.kbank.tail },
      { c with kbank := [0, 0, 0] :: c.kbank.tail }].all malformed = true ∧
    [c, { c with bufsz := 4 }, { c with bufsz := 65536 }, { c with fr := 0x0000000000000001 },
      { c with kbank := [0, 0, 0, 0] :: c.kbank.tail }].all (fun c => !malformed c) = true := by
  decide +kernel

/-! ## Witnesses: states and operands that meet the hypotheses of each statement together -/

theorem next_after {w : Word} {d : Data} (h : goesOn (step (presenting w d)) = true) :
    ∃ t, step (presenting w d) = .next t := next_of_goesOn h

theorem witness_DecodedCommandReencodes :
    decode ⟨0x04000000, 0x0000000100000000⟩ = .ok (.setend 0 0 1) ∧
    (Instr.setend 0 0 1).op ∈ [Op.noteon, .setend, .bstep, .vdirect, .bqcoef, .lfocfg, .vgain, .mgain] ∧
    decode ⟨0x05000000, 7⟩ = .ok .tick ∧
    Instr.tick.op ∉ [Op.noteon, .setend, .bstep, .vdirect, .bqcoef, .lfocfg, .vgain, .mgain] := by decide

theorem witness_DecodeFollowsTheTable :
    (Op.row .bstep ∈ opTable ∧ (Op.row .bstep).selects 0x08F0FFFF = true) ∧
    (∀ r ∈ opTable, r.selects 0x06000000 = false) ∧
    (presenting 0x06000000 0).cmds = [⟨0x06000000, 0⟩] := by decide +kernel

/-- The classes (a), (b), (c), each at the edge of its range. -/
theorem witness_IllegalEncodingsFault :
    (∀ r ∈ opTable, (field r.pattern 24 8 : BitVec 8) ≠ field (0x06FFFFFF : Word) 24 8) ∧
    (∃ r ∈ opTable, (field r.pattern 24 8 : BitVec 8) = field (0x00000001 : Word) 24 8 ∧
      r.selects 0x00000001 = false) ∧
    (field (0x0100037F : Word) 24 8 = 0x01#8 ∧ field (0x0100037F : Word) 8 2 = 3#2) ∧
    (field (0x0C000005 : Word) 24 8 = 0x0C#8 ∧ 4 < (field (0x0C000005 : Word) 0 3 : BitVec 3).toNat) ∧
    (field (0x10000003 : Word) 24 8 = 0x10#8 ∧ field (0x10000003 : Word) 0 2 = 3#2) := by decide +kernel

theorem witness_StepRunsDecodedCommand :
    (presenting 0x03F00000 9).cmds = [⟨0x03F00000, 9⟩] ∧ decode ⟨0x03F00000, 9⟩ = .ok (.cut 15) ∧
    State.reset.cmds = [] := by decide +kernel

/-- A command that completes, one that faults, one that is refused. -/
theorem witness_PositionAdvancesByOne :
    (presenting 0x05000000 0).cmds ≠ [] ∧
    (∃ t, step (presenting 0x05000000 0) = .next t) ∧ (∃ t, step (presenting 0x06000000 0) = .next t) ∧
    (∃ t, step { refusing with cmds := [⟨0x05000000, 0⟩] } = .next t) ∧
    ∃ t, exec .tick State.reset = .next t := by
  refine ⟨by decide, next_of_goesOn ?_, next_of_goesOn ?_, next_of_goesOn ?_, next_of_goesOn ?_⟩ <;>
    decide +kernel

/-- `KcfgSetOnlyAtReset`, `ConfigurationNeverChanges`, `ErrorRegistersAreSticky`: a step that faults. -/
theorem witness_stepNext :
    ∃ t, step (presenting 0x06000000 0) = .next t ∧ (presenting 0x06000000 0).err.toNat / 2 = 0 ∧
      t.errw ≠ (presenting 0x06000000 0).errw :=
  ⟨_, rfl, by decide +kernel, by decide +kernel⟩

theorem witness_ErrorRegistersAreSticky :
    let s := { presenting 0x06000000 0 with err := 4, errv := 1, errw := 0x08000000 }
    s.err.getLsbD 2 = true ∧ s.errv.getLsbD 0 = true ∧ ∃ t, step s = .next t :=
  ⟨by decide, by decide, _, rfl⟩

/-- The reset machine meets the invariant. -/
theorem test_inv_reset : State.reset.Inv := by decide +kernel

theorem test_inv_refusing : refusing.Inv ∧ refusing.kcfg = true := ⟨by decide +kernel, by decide +kernel⟩

theorem witness_StepKeepsInvariant :
    State.Inv { withVoice (playing .attack (-92544)) with cmds := [⟨0x05000000, 0⟩] } ∧
    ∃ t, step { withVoice (playing .attack (-92544)) with cmds := [⟨0x05000000, 0⟩] } = .next t :=
  ⟨by decide +kernel, next_of_goesOn (by decide +kernel)⟩

theorem witness_InvariantStatesRunForever : State.Inv (presenting 0x17000000 0) := by decide +kernel

/-- Each code is reported by some command, with and without a voice; and a command that reports none. -/
theorem witness_FirstFailingCheckIsReported :
    expectedFault State.reset (.bqcoef 0 0 5 0x7FF8000000000000) = some (.illegal, none) ∧
    expectedFault State.reset (.bstep 0 0 0 0x7FF8000000000000) = some (.operand, some 0) ∧
    expectedFault State.reset (.mgain 1 0x7FF0000000000000) = some (.operand, none) ∧
    expectedFault State.reset (.bstep 0 1023 63 0x3FF0000000000000) = some (.mode, some 0) ∧
    expectedFault (withVoice (playing .attack 0)) (.bstep 0 5 0 0) = some (.range, some 0) ∧
    expectedFault (withVoice (playing .attack 0)) (.bstep 0 4 0 0) = none ∧
    expectedFault refusing (.bstep 0 0 0 0x7FF8000000000000) = none ∧
    (∃ t, exec (.bstep 0 4 0 0) (withVoice (playing .attack 0)) = .next t) := by
  refine ⟨?_, ?_, ?_, ?_, ?_, ?_, ?_, next_of_goesOn ?_⟩ <;> decide +kernel

theorem witness_RefusedUnderKcfg :
    refusing.kcfg = true ∧ Instr.frame.wellFormed = true ∧ runsUnderKcfg .frame = false ∧
    (Instr.lfocfg 3 0 0 0 0 0).wellFormed = false ∧
    ∃ t, step { refusing with cmds := [⟨0x17000000, 0⟩] } = .next t := by
  refine ⟨?_, ?_, ?_, ?_, next_of_goesOn ?_⟩ <;> decide +kernel

/-- The statements whose hypothesis on the state is `Ready` alone. -/
theorem witness_Ready : State.reset.Ready ∧ (withVoice (playing .sustain (-3000))).Ready := by
  decide +kernel

/-- Both ends of the sustain range, and the value beyond each; the reserved mode. -/
theorem witness_NoteonStartsNote :
    State.reset.Ready ∧ (2 : BitVec 2) ≠ 3 ∧
    (-92544 ≤ (0xFE9680 : BitVec 24).toInt ∧ (0xFE9680 : BitVec 24).toInt ≤ 0) ∧
    (-92544 ≤ (0 : BitVec 24).toInt ∧ (0 : BitVec 24).toInt ≤ 0) ∧
    (0xFE967F : BitVec 24).toInt < -92544 ∧ 0 < (1 : BitVec 24).toInt ∧
    (3 : BitVec 2) = 3 := by decide +kernel

theorem witness_SetendWritesEndTick :
    State.reset.Ready ∧ (0 : BitVec 32) = 0 ∧ (1 : BitVec 32) ≠ 0 := by decide +kernel

/-- A voice that sounds and one that does not; one that is cut in its tick. -/
theorem witness_TickStepsActiveVoices :
    let s := withVoice (playing .release (-92544))
    s.Ready ∧ (s.voice 0).active = true ∧ (s.voice 1).active = false ∧
    ((after .tick s).voice 0).active = false := by decide +kernel

theorem witness_OnePhaseActionPerTick :
    let s := withVoice (playing .decay (-2000))
    s.Ready ∧ s.Inv ∧ (s.voice 0).active = true := by decide +kernel

/-- Both ends of the timer's range. -/
theorem witness_AttackMovesTimer : ∀ n ∈ [-92544, (0 : Int)],
    let s := withVoice (playing .attack n)
    s.Ready ∧ s.Inv ∧ (s.voice 0).active = true ∧ (s.voice 0).phase = .attack ∧
    ¬EndTickPassed s (s.voice 0) := by decide +kernel

theorem witness_AttackReachesZero :
    (-92544 ≤ (playing .attack (-92544)).timer.toInt ∧ (playing .attack (-92544)).timer.toInt ≤ 0) ∧
    (-92544 ≤ (playing .attack 0).timer.toInt ∧ (playing .attack 0).timer.toInt ≤ 0) ∧
    (playing .attack (-92544)).atk = 255 ∧ (playing .attack (-92544)).timer.toInt = -92544 ∧
    (playing .attack (-1)).timer.toInt < 0 ∧ { playing .attack (-1) with atk := 0 }.atk = 0 := by
  decide +kernel

/-- The clamp at equality, and one short of it. -/
theorem witness_DecayFallsToSustainLevel : ∀ n ∈ [-2000, (-1999 : Int)],
    let s := withVoice (playing .decay n)
    let x := s.voice 0
    s.Ready ∧ s.Inv ∧ x.active = true ∧ x.phase = .decay ∧ ¬EndTickPassed s x ∧
    (n = -2000 → x.timer.toInt - (x.dec.toNat : Int) = x.sus.toInt) ∧
    (n = -1999 → x.sus.toInt < x.timer.toInt - (x.dec.toNat : Int)) := by decide +kernel

theorem witness_SustainIsConstant :
    let s := withVoice (playing .sustain (-3000))
    (s.Ready ∧ s.Inv ∧ (s.voice 0).active = true ∧ (s.voice 0).phase = .sustain ∧
      ¬EndTickPassed s (s.voice 0)) ∧
    goesOn (exec (.release 0) s) = true ∧ ((after (.release 0) s).voice 0).phase ≠ .sustain := by
  decide +kernel

/-- At the cut, one above it, a pulse, and a voice that the end-tick test releases in this tick. -/
theorem witness_ReleaseFallsToCut :
    (∀ n ∈ [-62544, (-62543 : Int)],
      let s := withVoice (playing .release n)
      let x := s.voice 0
      s.Ready ∧ s.Inv ∧ x.active = true ∧ x.phase = Phase.release ∧
      (n = -62544 → x.timer.toInt - (x.rel.toNat : Int) = -92544) ∧
      (n = -62543 → x.psg = false ∧ -92544 < x.timer.toInt - (x.rel.toNat : Int))) ∧
    let s := withVoice { playing .sustain (-3000) with psg := true, endTick := 0 }
    s.Ready ∧ s.Inv ∧ (s.voice 0).active = true ∧ EndTickPassed s (s.voice 0) ∧
      (s.voice 0).psg = true := by decide +kernel

/-- `LINDB` of `TROM` at an index of the table. -/
theorem linAt_trom (k : Nat) (hk : k < 724) (c : Cfg) (hc : c.lindb = tromLindb) :
    linAt c ((k : Int) - 723) = 127 * k / 723 := by
  have hl : c.lindb.val = (List.range 724).map fun k => BitVec.ofNat 8 (127 * k / 723) := by
    simp only [hc, tromLindb]
  have hi : ((k : Int) - 723 - dbMin c).toNat = k := by
    simp only [dbMin, nLin, hl, List.length_map, List.length_range]
    omega
  simp only [linAt, hi, hl, List.getD_eq_getElem?_getD, List.getElem?_map, List.getElem?_range hk,
    Option.map_some, Option.getD_some, BitVec.toNat_ofNat]
  omega

/-- 40_envelope R125: `TROM` satisfies `ROM_MONOTONE`. -/
theorem witness_RomMonotone : RomMonotone resetCfg := by
  have hc : resetCfg.lindb = tromLindb := rfl
  generalize resetCfg = c at hc
  have hd : dbMin c = -723 := by
    simp only [dbMin, nLin, hc, tromLindb, List.length_map, List.length_range]
    rfl
  intro a b ha hab hb
  rw [hd] at ha
  obtain ⟨k, rfl⟩ : ∃ k : Nat, a = (k : Int) - 723 := ⟨(a + 723).toNat, by omega⟩
  obtain ⟨n, rfl⟩ : ∃ n : Nat, b = (n : Int) - 723 := ⟨(b + 723).toNat, by omega⟩
  rw [linAt_trom k (by omega) c hc, linAt_trom n (by omega) c hc]
  have hl : 127 * k / 723 ≤ 127 * n / 723 := Nat.div_le_div_right (by omega)
  have ha : 0 ≤ attenuation ((n : Int) - 723) ∧
      attenuation ((n : Int) - 723) ≤ attenuation ((k : Int) - 723) := by
    unfold attenuation
    split_ifs <;> omega
  exact mul_le_mul (by exact_mod_cast hl) ha.2 ha.1 (by positivity)

/-- `VolumeIsCorrectlyRounded`. -/
theorem witness_num : resetCfg.num = .binary64 := rfl

theorem witness_VolumeIsMonotone : RomMonotone State.reset.cfg ∧
    (∀ x ∈ [playing .attack (-92544), playing .release (-3000), playing .sustain (-3000),
        { playing .decay (-2000) with endTick := 0 }],
      let s := withVoice x
      s.Ready ∧ s.Inv ∧ s.cfg.num = .binary64 ∧ s.cfg = resetCfg ∧ (s.voice 0).active = true ∧ (s.voice 0).psg = false ∧
      (x.phase = .decay → EndTickPassed s (s.voice 0)) ∧
      (x.phase ≠ .decay → ¬EndTickPassed s (s.voice 0))) :=
  ⟨witness_RomMonotone, by decide +kernel⟩

/-- The gate shut, the gate open, and a voice that is not stepped. -/
theorem witness_LfoCountersAdvance :
    let s := { withVoice (playing .sustain (-3000)) with lfoDelay := 1 }
    let u := s.setVoice 0 { playing .sustain (-3000) with lfoDly := 1, lfoCnt := 0x7FFF }
    s.Ready ∧ ((after .tick s).voice 0).active = true ∧
    (s.voice 0).lfoDly.toNat < s.lfoDelay.toNat ∧
    u.Ready ∧ ((after .tick u).voice 0).active = true ∧ ¬(u.voice 0).lfoDly.toNat < u.lfoDelay.toNat ∧
    ((after .tick u).voice 1).active = false := by decide +kernel

/-- The ends of the four quadrants, and a table that differs in an entry never read. -/
theorem witness_SineFromQuarterTable :
    ((0 : BitVec 7).toNat < 32 ∧ (31 : BitVec 7).toNat < 32) ∧
    (32 ≤ (32 : BitVec 7).toNat ∧ (63 : BitVec 7).toNat < 64) ∧
    (64 ≤ (64 : BitVec 7).toNat ∧ (95 : BitVec 7).toNat < 96) ∧ 96 ≤ (96 : BitVec 7).toNat ∧
    (∀ k ≤ 32, (resetCfg.qsin.set 33 9).toList.getD k 0 = resetCfg.qsin.toList.getD k 0) ∧
    resetCfg.qsin.set 33 9 ≠ resetCfg.qsin := by decide +kernel

theorem witness_LfocfgWritesConfiguration :
    State.reset.Ready ∧ (2 : BitVec 2) ≠ 3 ∧ (0 : BitVec 24) = 0 ∧ (1 : BitVec 24) ≠ 0 := by decide +kernel

/-- The largest offset accepted, the least one refused, and the other two faults. -/
theorem witness_BstepConvolvesStep :
    let s := withVoice (playing .attack 0)
    (s.Ready ∧ s.Inv ∧ s.cfg.num.finite F64.s1 = true ∧ (s.voice 0).mode = .blstep ∧
      (4 : BitVec 10).toNat + nTaps s.cfg ≤ nSlots s.cfg) ∧
    nSlots s.cfg < (5 : BitVec 10).toNat + nTaps s.cfg ∧
    s.cfg.num.finite 0x7FF0000000000000 = false ∧ (s.voice 1).mode ≠ .blstep := by decide +kernel

/-- A band-limited voice with its filter and one without; a voice of another mode. -/
theorem witness_BreadIntegratesAndDrains :
    let s := (withVoice (playing .attack 0)).setVoice 1 { playing .attack 0 with bqen := false }
    s.Ready ∧ s.Inv ∧ (s.voice 0).mode = .blstep ∧ (s.voice 0).bqen = true ∧
    (s.voice 1).mode = .blstep ∧ (s.voice 1).bqen = false ∧ (s.voice 2).mode ≠ .blstep := by decide +kernel

/-- `BL_ACC` moves with the `NOTEON` that takes the slot, with a `BREAD` and with a `FRAME`. -/
theorem witness_BreadIntegratesAndDrains_writers :
    let s := withVoice { playing .attack 0 with blAcc := F64.s1, buf := [(0, F64.s1)] }
    [Instr.noteon 127 2 false false false 0 0 0 0, .bread 0, .frame].all (fun i =>
      goesOn (exec i s) && ((after i s).voice 0).blAcc != (s.voice 0).blAcc) = true := by decide +kernel

theorem witness_ReadOutRunsBiquadChain :
    let s := withVoice (playing .attack 0)
    s.Ready ∧ s.Inv ∧ (s.voice 0).mode = .blstep ∧ (s.voice 0).bqen = true := by decide +kernel

theorem witness_FilterStateMovesOnlyOnRead :
    let s := withVoice { playing .attack 0 with blAcc := F64.s1 }
    goesOn (exec (.bread 0) s) = true ∧
    ((after (.bread 0) s).voice 0).bq0.hist 0 ≠ (s.voice 0).bq0.hist 0 := by decide +kernel

theorem witness_VdirectSetsOutput :
    State.reset.Ready ∧ State.reset.cfg.num.finite 0x7FEFFFFFFFFFFFFF = true ∧ (State.reset.voice 0).mode ≠ .blstep ∧
    State.reset.cfg.num.finite 0xFFF0000000000000 = false ∧
    ((withVoice (playing .attack 0)).voice 0).mode = .blstep := by decide +kernel

theorem witness_BqcoefLoadsCoefficient :
    State.reset.Ready ∧ (4 : BitVec 3).toNat ≤ 4 ∧ 4 < (5 : BitVec 3).toNat ∧
    State.reset.cfg.num.finite 0x3FE0000000000000 = true ∧
    State.reset.cfg.num.finite 0x7FF0000000000001 = false := by decide +kernel

/-- `VgainSetsGain` and `MgainSetsGain`. -/
theorem witness_gains :
    State.reset.Ready ∧ State.reset.cfg.num.finite 0xBFE0000000000000 = true ∧
    State.reset.cfg.num.finite 0x7FF8000000000000 = false := by
  decide +kernel

theorem witness_MixSumsActiveVoices :
    let s := withVoice (playing .attack 0)
    s.Ready ∧ (s.voice 0).active = true ∧ (s.voice 15).active = false := by decide +kernel

theorem witness_FrameAdvancesThenMixes :
    let s := (withVoice (playing .attack 0)).setVoice 1 { playing .attack 0 with mode := .cubic }
    s.Ready ∧ s.Inv ∧ ((s.voice 0).active = true ∧ (s.voice 0).mode = .blstep) ∧
    ¬((s.voice 1).active = true ∧ (s.voice 1).mode = .blstep) := by decide +kernel

/-- The ends of the ranges of 10_state R44 and the numbers beyond them. -/
theorem witness_RegisterNumbersAreThese :
    registerExists (0x04 : BitVec 8).toNat = true ∧ registerExists (0x05 : BitVec 8).toNat = false ∧
    registerExists (0x77 : BitVec 8).toNat = true ∧ registerExists (0x78 : BitVec 8).toNat = false ∧
    ((0x04 : BitVec 8).toNat < 0x40 → (0 : Slot) = 0) := by decide +kernel

theorem witness_RdregReturnsRegister :
    (State.reset.cfg.ks = (4 : Nat) ∧ 4 < 2 ^ 16) ∧ (State.reset.cfg.bufsz = (8 : Nat) ∧ 8 < 2 ^ 64) ∧
    (0x1A : BitVec 8).toNat < 0x40 ∧ (5 : Slot) ≠ 0 ∧ registerExists (0x3F : BitVec 8).toNat = false := by
  decide +kernel

theorem witness_RdbufReturnsSlot :
    State.reset.Ready ∧ (7 : BitVec 16).toNat < nSlots State.reset.cfg ∧
    nSlots State.reset.cfg ≤ (8 : BitVec 16).toNat := by decide +kernel

theorem witness_RdkReturnsTap :
    State.reset.Ready ∧ State.reset.Inv ∧ (3 : BitVec 16).toNat < nTaps State.reset.cfg ∧
    nTaps State.reset.cfg ≤ (4 : BitVec 16).toNat := by decide +kernel

theorem witness_RdromReturnsEntry :
    (127 : BitVec 16).toNat < 128 ∧ (723 : BitVec 16).toNat < State.reset.cfg.lindb.val.length ∧
    (35 : BitVec 16).toNat < 36 ∧ 128 ≤ (128 : BitVec 16).toNat ∧
    State.reset.cfg.lindb.val.length ≤ (724 : BitVec 16).toNat ∧ 36 ≤ (36 : BitVec 16).toNat := by
  decide +kernel

theorem witness_ReadsAreIdempotent :
    (Instr.rdbuf 0 7).op ∈ [Op.rdreg, .rdbuf, .rdk, .rdrom] ∧
    operandBad State.reset (.rdbuf 0 7) = false ∧ goesOn (exec (.rdbuf 0 7) State.reset) = true := by
  decide +kernel

/-- A command that is none of the five, and a read that faults. -/
theorem witness_RdataWrittenByReadsAndNoteon :
    goesOn (exec .tick State.reset) = true ∧
    Instr.tick.op ∉ [Op.rdreg, .rdbuf, .rdk, .rdrom, .noteon] ∧
    goesOn (exec (.rdbuf 0 8) State.reset) = true ∧
    (after (.rdbuf 0 8) State.reset).err ≠ State.reset.err ∧
    expectedFault State.reset (.rdbuf 0 8) ≠ none := by decide +kernel

/-- The statements on every command that goes on: a `TICK`, a `NOTEON`, an `MGAIN`, an `LFOCFG`, a
`FRAME`. -/
theorem witness_execNext : ∀ i ∈ [Instr.tick, .noteon 127 2 false false false 0 0 0 0, .mgain 0 F64.s0,
    .lfocfg 1 1 1 1 1 0, .frame],
    goesOn (exec i (withVoice { playing .attack 0 with blAcc := F64.s1 })) = true := by decide +kernel

/-- A `NOTEON` that completes, with the pointer at its edge; one that faults, one that is refused, and a
command that is none. -/
theorem witness_AllocationIsRoundRobin :
    let i : Instr := .noteon 127 2 false false false 0 0 0 0
    let s := { State.reset with alloc := 15 }
    (i.op = .noteon ∧ s.Ready ∧ expectedFault s i = none) ∧
    (expectedFault s (.noteon 127 2 false false false 0 0 0 1) ≠ none ∧
      goesOn (exec (.noteon 127 2 false false false 0 0 0 1) s) = true) ∧
    (¬refusing.Ready ∧ goesOn (exec i refusing) = true) ∧
    Instr.tick.op ≠ .noteon ∧ goesOn (exec .tick s) = true := by decide +kernel

theorem witness_MixerGlobalsHaveTheirWriters :
    let s := withVoice { playing .attack 0 with blAcc := F64.s1 }
    (after (.mgain 0 F64.s0) s).mgl ≠ s.mgl ∧ (after (.mgain 1 F64.s0) s).mgr ≠ s.mgr ∧
    (after .frame s).outl ≠ s.outl ∧ goesOn (exec .frame s) = true := by decide +kernel

/-- `LfoConfigurationHasOneWriter` and `NoteParametersHaveOneWriter`. -/
theorem witness_oneWriter :
    Instr.tick.op ≠ .lfocfg ∧ ¬(Instr.tick.op = .noteon ∧ (0 : Slot) = State.reset.alloc) ∧
    goesOn (exec .tick State.reset) = true := by decide +kernel

theorem witness_AddressedVoiceOnly :
    voiceField (.rdreg 3 0x40) = some 3 ∧ goesOn (exec (.rdreg 3 0x40) State.reset) = true ∧
    voiceField (.bread 0) = some 0 ∧ goesOn (exec (.bread 0) (withVoice (playing .attack 0))) = true := by
  decide +kernel

/-- Finite operands: an exact sum below the overflow threshold, a sum at it, one half way between two
values, an exact zero, and a divisor that is not 0. -/
theorem witness_ArithmeticIsNearest :
    let a : Sample := 0x3FF0000000000001
    let b : Sample := 0x4008000000000000
    let halfUlp : Sample := 0x7C90000000000000
    let tie : Sample := 0x3CA0000000000000
    let max : Sample := 0x7FEFFFFFFFFFFFFF
    let A := F64.scaled a
    let B := F64.scaled b
    (F64.finite a = true ∧ F64.finite b = true ∧ B ≠ 0 ∧ (A + B).natAbs < F64.overflow * 1 ∧
      (A - B).natAbs < F64.overflow * 1 ∧ (A * B).natAbs < F64.overflow * 2 ^ 1074 ∧
      (A * 2 ^ 1074 * B.sign).natAbs < F64.overflow * B.natAbs) ∧
    (F64.finite max = true ∧ F64.finite halfUlp = true ∧
      (F64.scaled max + F64.scaled halfUlp).natAbs = F64.overflow ∧
      F64.add [] max halfUlp = 0x7FF0000000000000) ∧
    (2 * (F64.scaled F64.s1 + F64.scaled tie) = F64.scaled F64.s1 + A ∧ F64.add [] F64.s1 tie = F64.s1) ∧
    A - A = 0 ∧ A + F64.scaled 0xBFF0000000000001 = 0 := by
  decide +kernel

theorem witness_SmallIntegersAreExact :
    ((2 : Int) ^ 24).natAbs ≤ 2 ^ 24 ∧ (-(2 : Int) ^ 24).natAbs ≤ 2 ^ 24 := by decide

end Sys2Proof.Tests
end

section
/-! PROOFS. What an outcome ensures of the next state: one rule for each way a command can end, used where
a claim is about every next state of a command. -/

namespace Sys2Proof.Machine

/-- If the outcome goes on, its next state has `P`. -/
def Ensures (P : State → Prop) (o : Out) : Prop := ∀ t, o = .next t → P t

@[simp] theorem ensures_next (P : State → Prop) (t : State) : Ensures P (.next t) ↔ P t := by
  simp [Ensures]

@[simp] theorem ensures_fault (P : State → Prop) (f : Fault) : Ensures P (.fault f) := by
  simp [Ensures]

@[simp] theorem ensures_raise (P : State → Prop) (c : FaultCode) (v : Option Slot) (i : Instr) (s : State) :
    Ensures P (raise c v i s) ↔ P (s.takeFault c v i.word) :=
  ensures_next P _

@[simp] theorem ensures_ite (P : State → Prop) (c : Prop) [Decidable c] (a b : Out) :
    Ensures P (if c then a else b) ↔ (c → Ensures P a) ∧ (¬c → Ensures P b) := by
  split <;> simp_all

/-- A checked command is either refused in the state it found, or runs (60_exceptions R246). -/
@[simp] theorem ensures_unlessKcfg (P : State → Prop) (s : State) (run : Out) :
    Ensures P (unlessKcfg s run) ↔ (s.kcfg = true → P s) ∧ (s.Ready → Ensures P run) := by
  simp [unlessKcfg]

end Sys2Proof.Machine
end

section
/-! PROOFS. `CFG` is fixed (00_scope R7). -/

namespace Sys2Proof.Machine

/-- No command writes `CFG`. -/
theorem exec_keeps_cfg (i : Instr) (s : State) : Ensures (·.cfg = s.cfg) (exec i s) := by
  cases i with
  | nop => simp [exec, execNop]
  | noteon vel mode =>
    simp only [exec, execNoteon]
    cases Mode.ofField mode <;> simp
  | release v => simp [exec, execRelease]
  | cut v => simp [exec, execCut]
  | setend v => simp [exec, execSetend]
  | tick => simp [exec, execTick]
  | bstep v off ph x =>
    simp only [exec, execBstep]
    cases kernel s.cfg ph <;> simp
  | bread v => simp [exec, execBread]
  | vdirect v x => simp [exec, execVdirect]
  | bqcoef v stage k x =>
    simp only [exec, execBqcoef]
    cases ((s.voice v).bq stage).setCoef k x <;> simp
  | lfocfg type =>
    simp only [exec, execLfocfg]
    cases LfoType.ofField type <;> simp
  | vgain v ch x => simp [exec, execVgain]
  | mgain ch x => simp [exec, execMgain]
  | mix => simp [exec, execMix]
  | frame => simp [exec, execFrame]
  | rdreg v r =>
    simp only [exec, execRdreg]
    cases s.readReg v r <;> simp
  | rdbuf v idx => simp [exec, execRdbuf]
  | rdk ph tap =>
    simp only [exec, execRdk]
    cases (kernel s.cfg ph).bind (·[tap.toNat]?) <;> simp
  | rdrom tbl idx =>
    simp only [exec, execRdrom]
    cases readRom s.cfg tbl idx <;> simp

/-- Settles O13: an idle step changes nothing, an illegal word takes a fault, and no command writes `CFG`. -/
theorem configurationNeverChanges : Obligations.ConfigurationNeverChanges := by
  intro s t h
  obtain ⟨-, ht⟩ | ⟨_, _, _, -, -, ht⟩ | ⟨_, _, i, -, -, ht⟩ := step_cases h
  · cases ht
    rfl
  · cases ht
    rfl
  · exact exec_keeps_cfg i s.consume t ht.symm

end Sys2Proof.Machine
end

section
/-! PROOFS. What a command leaves of the state outside the voice file (10_state section 2): one frame for
every command, from which each claim on the writers of a global register follows. -/

namespace Sys2Proof.Machine

/-- What the command `i` leaves as it was between `s` and `t`, outside the voice file: the port always, and
each global register unless `i` is one of its writers (10_state R21, R27 to R30). -/
structure GlobalFrame (i : Instr) (s t : State) : Prop where
  pos : t.pos = s.pos
  cmds : t.cmds = s.cmds
  tickcnt : i ≠ .tick → t.tickcnt = s.tickcnt
  alloc : i.op ≠ .noteon → t.alloc = s.alloc ∧ t.lastslot = s.lastslot
  lfo : i.op ≠ .lfocfg → t.lfoType = s.lfoType ∧ t.lfoDepth = s.lfoDepth ∧
    t.lfoRange = s.lfoRange ∧ t.lfoSpeed = s.lfoSpeed ∧ t.lfoDelay = s.lfoDelay
  mgl : (∀ x, i ≠ .mgain 0 x) → t.mgl = s.mgl
  mgr : (∀ x, i ≠ .mgain 1 x) → t.mgr = s.mgr
  out : i ≠ .mix → i ≠ .frame → t.outl = s.outl ∧ t.outr = s.outr

theorem GlobalFrame.refl (i : Instr) (s : State) : GlobalFrame i s s := by
  constructor <;> simp

theorem globalFrame_takeFault (i : Instr) (s : State) (c : FaultCode) (v : Option Slot) (w : Word) :
    GlobalFrame i s (s.takeFault c v w) := by
  constructor <;> simp

theorem globalFrame_setVoice (i : Instr) (s : State) (v : Slot) (x : Voice) :
    GlobalFrame i s (s.setVoice v x) := by
  constructor <;> simp

theorem globalFrame_setRdata (i : Instr) (s : State) (d : Data) : GlobalFrame i s (s.setRdata d) := by
  constructor <;> simp

/-- The channel field has the two values 0 and 1. -/
theorem channel_eq_one : ∀ ch : BitVec 1, ch ≠ 0 → ch = 1 := by decide

/-- Every command keeps the frame: each register has the writers 10_state section 2 lists. -/
theorem exec_globalFrame (i : Instr) (s : State) : Ensures (GlobalFrame i s) (exec i s) := by
  have refused := GlobalFrame.refl i s
  have faulted := globalFrame_takeFault i s
  have voice := globalFrame_setVoice i s
  have read := globalFrame_setRdata i s
  cases i with
  | nop => simp [exec, execNop, refused]
  | noteon vel mode =>
    simp only [exec, execNoteon]
    cases Mode.ofField mode with
    | none => simp [faulted]
    | some m =>
      simp only [ensures_unlessKcfg, ensures_ite, ensures_next, ensures_raise]
      exact ⟨fun _ => refused, fun _ => ⟨fun _ => by constructor <;> simp [Instr.op], fun _ => faulted ..⟩⟩
  | release v => simp [exec, execRelease, refused, voice]
  | cut v => simp [exec, execCut, refused, voice]
  | setend v => simp [exec, execSetend, refused, faulted, voice]
  | tick =>
    simp only [exec, execTick, ensures_unlessKcfg, ensures_next]
    exact ⟨fun _ => refused, fun _ => by constructor <;> simp⟩
  | bstep v off ph x =>
    simp only [exec, execBstep]
    cases kernel s.cfg ph <;> simp [refused, faulted, voice]
  | bread v => simp [exec, execBread, refused, faulted, voice]
  | vdirect v x => simp [exec, execVdirect, refused, faulted, voice]
  | bqcoef v stage k x =>
    simp only [exec, execBqcoef]
    cases ((s.voice v).bq stage).setCoef k x <;> simp [refused, faulted, voice]
  | lfocfg type =>
    simp only [exec, execLfocfg]
    cases LfoType.ofField type with
    | none => simp [faulted]
    | some m =>
      simp only [ensures_unlessKcfg, ensures_ite, ensures_next, ensures_raise]
      exact ⟨fun _ => refused, fun _ => ⟨fun _ => faulted .., fun _ => by constructor <;> simp [Instr.op]⟩⟩
  | vgain v ch x => simp [exec, execVgain, refused, faulted, voice]
  | mgain ch x =>
    simp only [exec, execMgain, ensures_unlessKcfg, ensures_ite, ensures_next, ensures_raise]
    refine ⟨fun _ => refused, fun _ => ⟨fun _ => faulted .., fun _ => ⟨fun h0 => ?_, fun h1 => ?_⟩⟩⟩
    · constructor <;> simp [h0]
    · constructor <;> simp [channel_eq_one ch h1]
  | mix =>
    simp only [exec, execMix, ensures_unlessKcfg, ensures_next]
    exact ⟨fun _ => refused, fun _ => by constructor <;> simp⟩
  | frame =>
    simp only [exec, execFrame, ensures_unlessKcfg, ensures_ite, ensures_next, ensures_fault]
    exact ⟨fun _ => refused, fun _ => ⟨fun _ => by constructor <;> simp, fun _ => trivial⟩⟩
  | rdreg v r =>
    simp only [exec, execRdreg]
    cases s.readReg v r <;> simp [faulted, read]
  | rdbuf v idx => simp [exec, execRdbuf, refused, faulted, read]
  | rdk ph tap =>
    simp only [exec, execRdk]
    cases (kernel s.cfg ph).bind (·[tap.toNat]?) <;> simp [refused, faulted, read]
  | rdrom tbl idx =>
    simp only [exec, execRdrom]
    cases readRom s.cfg tbl idx <;> simp [faulted, read]

/-- Settles O56: the frame has `LFOCFG` as the one writer of the five registers. -/
theorem lfoConfigurationHasOneWriter : Obligations.LfoConfigurationHasOneWriter :=
  ⟨fun _ => ⟨rfl, rfl, rfl, rfl, rfl⟩, fun i s t h hop => (exec_globalFrame i s t h).lfo hop⟩

/-- Settles O55: a register that moved is one whose writer the command is. -/
theorem mixerGlobalsHaveTheirWriters : Obligations.MixerGlobalsHaveTheirWriters := by
  refine ⟨fun _ => ⟨rfl, rfl, rfl, rfl⟩, fun i s t h => ?_⟩
  have frame := exec_globalFrame i s t h
  refine ⟨fun moved => ?_, fun moved => ?_, fun moved => ?_⟩
  · by_contra hi
    exact moved (frame.mgl fun x hx => hi ⟨x, hx⟩)
  · by_contra hi
    exact moved (frame.mgr fun x hx => hi ⟨x, hx⟩)
  · by_contra hi
    obtain ⟨hmix, hframe⟩ := not_or.mp hi
    obtain ⟨hl, hr⟩ := frame.out hmix hframe
    exact moved.elim (· hl) (· hr)

/-- A `TICK` that completes advances `TICKCNT` by one (40_envelope R116). -/
theorem execTick_tickcnt (s : State) :
    Ensures (fun t => t.tickcnt = if s.kcfg then s.tickcnt else s.tickcnt + 1) (exec .tick s) := by
  simp +contextual [exec, execTick]

/-- Settles O53: a `TICK` is refused or counts, and the frame has no other writer. -/
theorem tickcntCountsTicks : Obligations.TickcntCountsTicks := by
  refine ⟨fun _ => rfl, fun i s t h => ?_⟩
  by_cases hi : i = .tick
  · subst hi
    rw [execTick_tickcnt s t h]
    cases s.kcfg <;> simp [BitVec.toNat_add]
  · simp [hi, (exec_globalFrame i s t h).tickcnt hi]

end Sys2Proof.Machine
end

section
/-! PROOFS. The position in the host's command list (10_state R21): every step advances it, no command
writes it and none reads it. -/

namespace Sys2Proof.Machine

/-- The machine at position `n` of the host's list. -/
def State.atPos (s : State) (n : Nat) : State := { s with pos := n }

/-- The outcome with its next state, if it goes on, taken to position `n`. -/
def outAtPos (n : Nat) : Out → Out
  | .next t => .next (t.atPos n)
  | .fault r => .fault r
  | .refused r => .refused r

/-! What a command reads of the state, and the updates it makes, do not depend on the position. -/

theorem cfg_atPos (s : State) (n : Nat) : (s.atPos n).cfg = s.cfg := rfl

theorem voice_atPos (s : State) (n : Nat) (v : Slot) : (s.atPos n).voice v = s.voice v := rfl

theorem readReg_atPos (s : State) (n : Nat) (v : Slot) (r : BitVec 8) :
    (s.atPos n).readReg v r = s.readReg v r := rfl

theorem mapVoices_atPos (s : State) (n : Nat) (f : Slot → Voice → Voice) :
    (s.atPos n).mapVoices f = (s.mapVoices f).atPos n :=
  List.foldl_hom (State.atPos · n) fun _ _ => rfl

theorem mixOutputs_atPos (p : Site) (s : State) (n : Nat) :
    mixOutputs p (s.atPos n) = (mixOutputs p s).atPos n := rfl

theorem frameVoice_atPos (s : State) (n : Nat) : frameVoice (s.atPos n) = frameVoice s := rfl

theorem frameReadable_atPos (s : State) (n : Nat) : frameReadable (s.atPos n) = frameReadable s := rfl

/-- No command reads the position: at another position it has the same outcome, at that position. -/
theorem exec_atPos (i : Instr) (s : State) (n : Nat) : exec i (s.atPos n) = outAtPos n (exec i s) := by
  have push := fun c [Decidable c] => apply_ite (β := Out) (outAtPos n) c
  cases i with
  | nop => rfl
  | noteon vel mode =>
    simp only [exec, execNoteon]
    cases Mode.ofField mode with
    | none => rfl
    | some m => simp only [unlessKcfg, push]; rfl
  | release v => simp only [exec, execRelease, unlessKcfg, push]; rfl
  | cut v => simp only [exec, execCut, unlessKcfg, push]; rfl
  | setend v => simp only [exec, execSetend, unlessKcfg, push]; rfl
  | tick => simp only [exec, execTick, unlessKcfg, push, mapVoices_atPos]; rfl
  | bstep v off ph x =>
    simp only [exec, execBstep, cfg_atPos]
    cases kernel s.cfg ph <;> (simp only [unlessKcfg, push]; rfl)
  | bread v => simp only [exec, execBread, unlessKcfg, push]; rfl
  | vdirect v x => simp only [exec, execVdirect, unlessKcfg, push]; rfl
  | bqcoef v stage k x =>
    simp only [exec, execBqcoef, voice_atPos]
    cases ((s.voice v).bq stage).setCoef k x with
    | none => rfl
    | some q => simp only [unlessKcfg, push]; rfl
  | lfocfg type =>
    simp only [exec, execLfocfg]
    cases LfoType.ofField type with
    | none => rfl
    | some t => simp only [unlessKcfg, push]; rfl
  | vgain v ch x => simp only [exec, execVgain, unlessKcfg, push]; rfl
  | mgain ch x => simp only [exec, execMgain, unlessKcfg, push]; rfl
  | mix => simp only [exec, execMix, unlessKcfg, push, mixOutputs_atPos]; rfl
  | frame => 
    simp only [exec, execFrame, unlessKcfg, push, frameReadable_atPos, frameVoice_atPos, mapVoices_atPos,
      mixOutputs_atPos]
    rfl
  | rdreg v r =>
    simp only [exec, execRdreg, readReg_atPos]
    cases s.readReg v r <;> rfl
  | rdbuf v idx => simp only [exec, execRdbuf, unlessKcfg, push]; rfl
  | rdk ph tap =>
    simp only [exec, execRdk, cfg_atPos]
    cases (kernel s.cfg ph).bind (·[tap.toNat]?) <;> (simp only [unlessKcfg, push]; rfl)
  | rdrom tbl idx =>
    simp only [exec, execRdrom, cfg_atPos]
    cases readRom s.cfg tbl idx <;> rfl

/-- Settles O7: the step takes one command from the port, and what runs then neither writes nor reads the
position. -/
theorem positionAdvancesByOne : Obligations.PositionAdvancesByOne := by
  refine ⟨fun _ => rfl, fun s t presented h => ?_, fun i s t n h => ⟨(exec_globalFrame i s t h).pos, ?_⟩⟩
  · obtain ⟨idle, -⟩ | ⟨_, _, _, -, -, ht⟩ | ⟨_, _, i, -, -, ht⟩ := step_cases h
    · exact absurd idle presented
    · cases ht
      exact ⟨rfl, rfl⟩
    · have frame := exec_globalFrame i s.consume t ht.symm
      exact ⟨frame.pos, frame.cmds⟩
  · exact (exec_atPos i s n).trans (congrArg (outAtPos n) h)

end Sys2Proof.Machine
end

section
/-! PROOFS. The reset values (10_state R46). -/

namespace Sys2Proof.Machine

/-- Every voice slot is at its reset value after reset. -/
@[simp] theorem voice_resetOf (c : Cfg) (v : Slot) : (State.resetOf c).voice v = Voice.reset c.num := by
  simp [State.voice, State.resetOf]

theorem flags_reset (num : Num) : (Voice.reset num).flags = 0 := by
  simp [Voice.flags, Voice.reset, Mode.num]

@[simp] theorem coef_reset (num : Num) (k : Fin 5) :
    (Biquad.reset num).coef k = if k = 0 then num.s1 else num.s0 := by
  fin_cases k <;> rfl

@[simp] theorem hist_reset (num : Num) (j : Fin 4) : (Biquad.reset num).hist j = num.s0 := by
  fin_cases j <;> rfl

/-- Settles O8: the globals by definition, and every slot is `Voice.reset`. -/
theorem resetValues : Obligations.ResetValues := by
  intro c
  refine ⟨rfl, rfl, rfl, rfl, rfl, rfl, rfl, rfl, rfl, rfl, rfl, rfl, rfl, rfl, rfl, rfl, rfl, fun v => ?_⟩
  rw [voice_resetOf]
  exact ⟨flags_reset c.num, rfl, rfl, rfl, rfl, rfl, rfl, rfl, rfl, rfl, rfl, rfl, rfl, rfl, rfl, rfl, rfl,
    rfl, rfl, rfl, fun k => ⟨coef_reset c.num k, coef_reset c.num k⟩,
    fun j => ⟨hist_reset c.num j, hist_reset c.num j⟩, fun _ => rfl⟩

end Sys2Proof.Machine
end

section
/-! PROOFS. The register numbers (10_state R44, 46_system R231). -/

namespace Sys2Proof.Machine

/-- Below 0x40 the numbers that exist are those of the global registers. -/
theorem isSome_globalReg_ofNum (r : BitVec 8) (h : r.toNat < 0x40) :
    (GlobalReg.ofNum r).isSome = registerExists r.toNat := by
  revert r
  decide

/-- From 0x40 on the numbers that exist are those of the per-voice registers. -/
theorem isSome_voiceReg_ofNum (r : BitVec 8) (h : ¬r.toNat < 0x40) :
    (VoiceReg.ofNum r).isSome = registerExists r.toNat := by
  revert r
  decide

/-- `RDREG` reads exactly the registers that exist, a global one with voice field 0 only. -/
theorem isSome_readReg (s : State) (v : Slot) (r : BitVec 8) :
    (s.readReg v r).isSome = (registerExists r.toNat && decide (r.toNat < 0x40 → v = 0)) := by
  unfold State.readReg
  split
  next global =>
    split
    next hv => simp [isSome_globalReg_ofNum r global, hv]
    next hv => simpa using fun _ => ⟨global, hv⟩
  next perVoice => simp [isSome_voiceReg_ofNum r perVoice, perVoice]

/-- Settles O46: `RDREG` succeeds where `readReg` has a value, and faults `OPERAND` where it has none. -/
theorem registerNumbersAreThese : Obligations.RegisterNumbersAreThese := by
  intro s v r
  have reads := isSome_readReg s v r
  refine ⟨fun hr hv => ?_, fun hr => ?_⟩
  · obtain ⟨d, hd⟩ := Option.isSome_iff_exists.mp (reads.trans (by rw [hr, decide_eq_true hv]; rfl))
    exact ⟨d, by simp only [exec, execRdreg, hd]; rfl⟩
  · have missing : s.readReg v r = none := by simpa [hr] using reads
    simp only [EndsInFault, exec, execRdreg, missing]
    rfl

end Sys2Proof.Machine
end

section
/-! PROOFS. The decoder against the opcode table (30_encoding R83, R84): a word decodes exactly when a row
selects it, then to the command of that row, and the command holds every bit of the word. -/

namespace Sys2Proof.Laws

/-! ## The table -/

/-- The opcode of a row is the number the decoder knows it by. -/
theorem ofNum_opcode (op : Op) : Op.ofNum (field op.row.pattern 24 8) = some op := by
  cases op <;> rfl

/-- The decoder knows an opcode by no other number. -/
theorem opcode_of_ofNum : ∀ n : BitVec 8, ∀ op ∈ Op.ofNum n, field op.row.pattern 24 8 = n := by decide

/-- The rows of the table are those of the nineteen opcodes. -/
theorem mem_opTable_iff {r : Row} : r ∈ opTable ↔ ∃ op : Op, op.row = r := by
  refine ⟨fun h => ⟨r.op, ?_⟩, ?_⟩
  · revert r
    decide
  · rintro ⟨op, rfl⟩
    cases op <;> decide

/-- The opcode values not assigned (30_encoding R85 a). -/
theorem ofNum_eq_none_iff (n : BitVec 8) : Op.ofNum n = none ↔
    n.toNat ∈ [0x06, 0x07, 0x0B, 0x0D, 0x0E, 0x0F, 0x11, 0x12, 0x13] ∨
      (0x18 ≤ n.toNat ∧ n.toNat ≤ 0x1F) ∨ 0x24 ≤ n.toNat := by
  revert n
  decide

/-- No row has an opcode the decoder does not know, and no other opcode is missing. -/
theorem forall_opcode_ne_iff (n : BitVec 8) :
    (∀ r ∈ opTable, field r.pattern 24 8 ≠ n) ↔ Op.ofNum n = none := by
  constructor
  · intro noRow
    rw [Option.eq_none_iff_forall_ne_some]
    intro op known
    exact noRow op.row (mem_opTable_iff.mpr ⟨op, rfl⟩) (opcode_of_ofNum n op known)
  · rintro unknown r hr rfl
    obtain ⟨op, rfl⟩ := mem_opTable_iff.mp hr
    simp [ofNum_opcode] at unknown

/-- Every mask covers the opcode bits, so a selected word has the opcode of its row. -/
theorem ofNum_of_selects {op : Op} {w : Word} (h : op.row.selects w = true) :
    Op.ofNum (field w 24 8) = some op := by
  have masked : field op.row.mask 24 8 = BitVec.allOnes 8 := by cases op <;> rfl
  have same : field op.row.pattern 24 8 = field w 24 8 := by
    rw [Row.selects, beq_iff_eq] at h
    rw [← h, field, BitVec.extractLsb'_and, ← field, ← field, masked, BitVec.and_allOnes]
  rw [← same, ofNum_opcode]

/-! ## The decoder -/

/-- A word decodes when a row selects it, and then to the command of that row (30_encoding R84). -/
theorem decode_eq_ok_iff {c : Command} {i : Instr} :
    decode c = .ok i ↔ ∃ op : Op, op.row.selects c.w = true ∧ op.operands c.w c.d = i := by
  constructor
  · intro h
    unfold decode at h
    split at h
    next => cases h
    next op _ =>
      split at h
      next selected => exact ⟨op, selected, Except.ok.inj h⟩
      next => cases h
  · rintro ⟨op, selected, rfl⟩
    simp [decode, ofNum_of_selects selected, selected]

theorem op_operands (op : Op) (w : Word) (d : Data) : (op.operands w d).op = op := by cases op <;> rfl

/-- The encoder puts the decoded fields back in their places: the bits of the mask are the row's, every
other bit is the word's (30_encoding R80, R81). -/
theorem word_operands (op : Op) (w : Word) (d : Data) :
    (op.operands w d).word = op.row.pattern ||| (w &&& ~~~op.row.mask) := by
  apply BitVec.eq_of_getLsbD_eq
  cases op <;>
  · simp only [Op.operands, Instr.word, Op.row, bit1, bitAt, getLsbD_toWord, BitVec.getLsbD_append,
      getLsbD_field, BitVec.getLsbD_or, BitVec.getLsbD_and, BitVec.getLsbD_not]
    intro i hi
    interval_cases i <;> simp

/-- A decoded command holds every bit of its word (log 16). -/
theorem word_of_decode {c : Command} {i : Instr} (h : decode c = .ok i) : i.word = c.w := by
  obtain ⟨op, selected, rfl⟩ := decode_eq_ok_iff.mp h
  rw [Row.selects, beq_iff_eq] at selected
  rw [word_operands, ← selected, ← BitVec.and_or_distrib_left, BitVec.or_not_self, BitVec.and_allOnes]

end Sys2Proof.Laws
end

section
/-! PROOFS. Illegal encodings (30_encoding R85): a command is illegal by its word when no row selects it or
when it holds a reserved field value, and both ways the step takes the same fault. -/

namespace Sys2Proof.Machine

open Sys2Proof.Laws

/-- A section has the five coefficients 0 to 4 (43_biquad R181). -/
theorem setCoef_eq_none_iff (q : Biquad) (k : BitVec 3) (x : Sample) :
    q.setCoef k x = none ↔ 4 < k.toNat := by
  unfold Biquad.setCoef
  split <;> grind

/-- A reserved field value faults `ILLEGAL`, whatever else holds (30_encoding R85 c, 60_exceptions R248). -/
theorem exec_of_not_wellFormed {i : Instr} (h : i.wellFormed = false) (s : State) :
    exec i s = raise .illegal none i s := by
  cases i with
  | noteon vel mode =>
    have reserved : mode = 3 := by simpa [Instr.wellFormed] using h
    subst reserved
    rfl
  | lfocfg type =>
    have reserved : type = 3 := by simpa [Instr.wellFormed] using h
    subst reserved
    rfl
  | bqcoef v stage k x =>
    have reserved : 4 < k.toNat := by simpa [Instr.wellFormed] using h
    simp [exec, execBqcoef, (setCoef_eq_none_iff _ k x).mpr reserved]
  | _ => cases h

/-- The one way every illegal encoding ends: if each row that selects the word reads a reserved field value
in it, the step faults `ILLEGAL` with that word.  A word that no row selects is the case with no such row. -/
theorem step_of_illegal {s : State} {c : Command} {rest : List Command} (presented : s.cmds = c :: rest)
    (illegal : ∀ op : Op, op.row.selects c.w = true → (op.operands c.w c.d).wellFormed = false) :
    step s = .next (s.consume.takeFault .illegal none c.w) := by
  cases decoded : decode c with
  | error e => simp [step, State.command?, presented, decoded, illegalWord]
  | ok i =>
    have reserved : i.wellFormed = false := by
      obtain ⟨op, selected, rfl⟩ := decode_eq_ok_iff.mp decoded
      exact illegal op selected
    simp [step, State.command?, presented, decoded, exec_of_not_wellFormed reserved, raise,
      word_of_decode decoded]

/-- Settles O3: decoding follows the table, and a word that no row selects is an illegal one. -/
theorem decodeFollowsTheTable : Obligations.DecodeFollowsTheTable := by
  refine ⟨fun c r hr selected => ?_, fun c unselected => ?_⟩
  · obtain ⟨op, rfl⟩ := mem_opTable_iff.mp hr
    exact ⟨_, decode_eq_ok_iff.mpr ⟨op, selected, rfl⟩, by rw [op_operands]⟩
  · have noRow (op : Op) : op.row.selects c.w ≠ true := by
      simp [unselected op.row (mem_opTable_iff.mpr ⟨op, rfl⟩)]
    refine ⟨?_, fun s rest presented => step_of_illegal presented fun op selected => ?_⟩
    · cases decoded : decode c with
      | error e => exact ⟨e, rfl⟩
      | ok i =>
        obtain ⟨op, selected, -⟩ := decode_eq_ok_iff.mp decoded
        exact absurd selected (noRow op)
    · exact absurd selected (noRow op)

/-- Settles O4: only the row of its opcode can select a word; in classes (a) and (b) that row is missing or
does not, and in class (c) it reads a reserved field value. -/
theorem illegalEncodingsFault : Obligations.IllegalEncodingsFault := by
  refine ⟨fun s c rest presented hclass => step_of_illegal presented fun op selected => ?_,
    fun n => (forall_opcode_ne_iff n).trans (ofNum_eq_none_iff n)⟩
  have known := ofNum_of_selects selected
  obtain unassigned | ⟨r, hr, opcode, unselected⟩ | ⟨opcode, mode⟩ | ⟨opcode, k⟩ | ⟨opcode, type⟩ := hclass
  · simp [(forall_opcode_ne_iff _).mp unassigned] at known
  · obtain ⟨op', rfl⟩ := mem_opTable_iff.mp hr
    rw [← opcode, ofNum_opcode] at known
    cases known
    simp [selected] at unselected
  · rw [opcode] at known
    cases known
    simp [Op.operands, Instr.wellFormed, mode]
  · rw [opcode] at known
    cases known
    simpa [Op.operands, Instr.wellFormed] using k
  · rw [opcode] at known
    cases known
    simp [Op.operands, Instr.wellFormed, type]

end Sys2Proof.Machine
end

section
/-! PROOFS. The commands on one voice (40_envelope R112 to R115). -/

namespace Sys2Proof.Machine

theorem onlyVoiceChanged_refl (v : Slot) (s : State) : OnlyVoiceChanged v s s :=
  ⟨rfl, fun _ _ => rfl⟩

theorem onlyVoiceChanged_setVoice (v : Slot) (s : State) (x : Voice) :
    OnlyVoiceChanged v s (s.setVoice v x) :=
  ⟨rfl, fun u other => by simp [other]⟩

/-- Settles O20: the voice is written when it is active and not yet in RELEASE; otherwise the phase asked for
is the one it has. -/
theorem releaseOnlyChangesPhase : Obligations.ReleaseOnlyChangesPhase := by
  intro s v ready
  simp only [exec, execRelease, unlessKcfg_ready ready]
  by_cases moves : (s.voice v).active = true ∧ (s.voice v).phase ≠ .release
  · exact ⟨_, if_pos moves, onlyVoiceChanged_setVoice .., by simp [moves.1]⟩
  · refine ⟨_, if_neg moves, onlyVoiceChanged_refl .., ?_⟩
    have same : (if (s.voice v).active then .release else (s.voice v).phase) = (s.voice v).phase := by
      split
      next active => exact (not_not.mp (not_and.mp moves active)).symm
      next => rfl
    rw [same]

/-- Settles O21: an active voice is force-cut, an inactive one is left. -/
theorem cutSilencesVoice : Obligations.CutSilencesVoice := by
  intro s v ready
  simp only [exec, execCut, unlessKcfg_ready ready]
  cases active : (s.voice v).active with
  | true => exact ⟨_, rfl, onlyVoiceChanged_setVoice .., by simp [forceCut]⟩
  | false => exact ⟨_, rfl, onlyVoiceChanged_refl .., by simp⟩

/-- Settles O22: the operand is checked, and then written whatever the voice is doing. -/
theorem setendWritesEndTick : Obligations.SetendWritesEndTick := by
  intro s v endTick mbz ready
  simp only [EndsInFault, exec, execSetend, unlessKcfg_ready ready]
  refine ⟨fun zero => ?_, fun nonzero => by rw [if_pos nonzero]; rfl⟩
  exact ⟨_, if_neg (not_not.mpr zero), onlyVoiceChanged_setVoice .., by simp⟩

end Sys2Proof.Machine
end

section
/-! PROOFS. `NOTEON` (40_envelope R111): what a legal mode and a legal sustain operand are, and the note that
is installed. -/

namespace Sys2Proof.Machine

/-- The level range `T0..0` fits the s32 it is kept in (10_state R35). -/
theorem toInt_ofInt_of_mem_range {n : Int} (low : t0 ≤ n) (high : n ≤ 0) :
    (BitVec.ofInt 32 n).toInt = n := by
  unfold t0 at low
  rw [BitVec.toInt_ofInt_eq_self] <;> omega

/-- Every field value but 3 selects the mode it is the number of (10_state R31). -/
theorem exists_mode_of_ne_three :
    ∀ field : BitVec 2, field ≠ 3 → ∃ m, Mode.ofField field = some m ∧ m.num = field := by
  decide

theorem susOk_iff (sus : BitVec 24) : susOk sus = true ↔ -92544 ≤ sus.toInt ∧ sus.toInt ≤ 0 := by
  simp only [susOk, Bool.and_eq_true, decide_eq_true_eq]
  rfl

/-- The machine with a note put in the slot `ALLOC`, and the slot number returned. -/
def State.startNote (s : State) (note : Voice) : State :=
  { s.setVoice s.alloc note with
    alloc := s.alloc + 1, lastslot := s.alloc, rdata := s.alloc.setWidth 64 }

@[simp] theorem voice_startNote (s : State) (note : Voice) (u : Slot) :
    (s.startNote note).voice u = if u = s.alloc then note else s.voice u :=
  voice_setVoice ..

section
variable {s : State} {vel : BitVec 7} {mode : BitVec 2} {psg held bqen : Bool} {atk : BitVec 8}
  {dec rel : BitVec 16} {sus : BitVec 24} {m : Mode}

/-- A `NOTEON` none of whose checks fails installs the note in the slot `ALLOC`. -/
theorem exec_noteon (ready : s.Ready) (legal : Mode.ofField mode = some m) (level : susOk sus = true) :
    exec (.noteon vel mode psg held bqen atk dec rel sus) s =
      .next (s.startNote (newNote s.cfg s.site vel m psg held bqen atk dec rel sus (s.voice s.alloc))) := by
  simp only [exec, execNoteon, legal, unlessKcfg_ready ready, if_pos level]
  rfl

/-- A sustain operand outside `T0..0` faults `OPERAND`. -/
theorem exec_noteon_badLevel (ready : s.Ready) (legal : Mode.ofField mode = some m)
    (level : ¬susOk sus = true) :
    EndsInFault .operand none (.noteon vel mode psg held bqen atk dec rel sus) s := by
  simp only [EndsInFault, exec, execNoteon, legal, unlessKcfg_ready ready, if_neg level]
  rfl

/-- Stealing does not touch `V_GEN`, so the slot counts one more note either way. -/
theorem gen_newNote (c : Cfg) (p : Site) (x : Voice) :
    (newNote c p vel m psg held bqen atk dec rel sus x).gen = x.gen + 1 := by
  simp only [newNote]
  split <;> rfl

/-- A note starts at `T0`, or at 0 if it has no attack. -/
theorem timer_newNote (c : Cfg) (p : Site) (x : Voice) :
    (newNote c p vel m psg held bqen atk dec rel sus x).timer.toInt = if atk = 0 then 0 else t0 := by
  apply toInt_ofInt_of_mem_range
  · split <;> decide
  · split <;> decide

theorem vol_newNote (c : Cfg) (p : Site) (x : Voice) :
    let y := newNote c p vel m psg held bqen atk dec rel sus x
    y.vol = calcVol c p vel y.timer.toInt := by
  simp only [timer_newNote]
  rfl

theorem sus_newNote (c : Cfg) (p : Site) (x : Voice) :
    (newNote c p vel m psg held bqen atk dec rel sus x).sus.toInt = sus.toInt :=
  BitVec.toInt_signExtend_of_le (by decide)

end

/-- Settles O19: the parameters are the operands', `V_GEN` counts on, and what is not a parameter is at its
reset value. -/
theorem noteonStartsNote : Obligations.NoteonStartsNote := by
  intro s vel mode psg held bqen atk dec rel sus
  refine ⟨fun ready legal low high => ?_, fun reserved => ?_, fun ready legal outside => ?_⟩
  · obtain ⟨m, selected, number⟩ := exists_mode_of_ne_three mode legal
    refine ⟨_, exec_noteon ready selected ((susOk_iff sus).mpr ⟨low, high⟩), rfl, ?_, rfl, ?_,
      fun u other => by simp [other], ?_⟩
    · simp [State.startNote, BitVec.toNat_add]
    · simp only [State.startNote, BitVec.toNat_setWidth]
      omega
    · rw [voice_startNote, if_pos rfl]
      exact ⟨rfl, rfl, rfl, rfl, number, by rw [gen_newNote, BitVec.toNat_add]; rfl, rfl, rfl, rfl,
        sus_newNote .., rfl, rfl, rfl, timer_newNote .., vol_newNote .., rfl, rfl, rfl, rfl, rfl, rfl, rfl,
        fun _ => rfl, rfl, rfl, fun k => ⟨coef_reset _ k, coef_reset _ k⟩,
        fun j => ⟨hist_reset _ j, hist_reset _ j⟩⟩
  · exact exec_of_not_wellFormed (by simp [Instr.wellFormed, reserved]) s
  · obtain ⟨m, selected, -⟩ := exists_mode_of_ne_three mode legal
    refine exec_noteon_badLevel ready selected fun level => ?_
    obtain ⟨low, high⟩ := (susOk_iff sus).mp level
    omega

end Sys2Proof.Machine
end

section
/-! PROOFS. `TICK` (40_envelope R116, R117): what one tick makes of one voice. -/

namespace Sys2Proof.Machine

/-- The machine after a controller tick. -/
def State.ticked (s : State) : State := { s.mapVoices (tickVoice s) with tickcnt := s.tickcnt + 1 }

theorem exec_tick {s : State} (ready : s.Ready) : exec .tick s = .next s.ticked :=
  unlessKcfg_ready ready _

@[simp] theorem voice_ticked (s : State) (v : Slot) : s.ticked.voice v = tickVoice s v (s.voice v) := by
  simpa only [State.voice, State.ticked] using voice_mapVoices s (tickVoice s) v

/-- A tick changes the voice file and `TICKCNT` and nothing else. -/
theorem ticked_frame (s : State) :
    s.ticked = { s with voices := s.ticked.voices, tickcnt := s.ticked.tickcnt } := by
  unfold State.ticked
  rw [mapVoices_eq]

/-! ## The end-tick test -/

/-- The end-tick test, in the terms claims are stated in (40_envelope R117). -/
theorem endTickTest_ite (s : State) (x : Voice) :
    endTickTest s.tickcnt x =
      if x.phase ≠ .release ∧ EndTickPassed s x then { x with phase := .release } else x := rfl

theorem endTickTest_of_not_passed {s : State} {x : Voice} (h : ¬EndTickPassed s x) :
    endTickTest s.tickcnt x = x :=
  if_neg fun released => h released.2

theorem endTickTest_of_released {s : State} {x : Voice} (h : x.phase = .release ∨ EndTickPassed s x) :
    endTickTest s.tickcnt x = { x with phase := .release } := by
  rw [endTickTest_ite]
  by_cases already : x.phase = .release
  · simp [← already]
  · exact if_pos ⟨already, h.resolve_left already⟩

/-! ## One voice -/

@[simp] theorem active_lfoStep (s : State) (x : Voice) : (lfoStep s x).active = x.active := by
  rw [lfoStep_frame]
@[simp] theorem phase_lfoStep (s : State) (x : Voice) : (lfoStep s x).phase = x.phase := by
  rw [lfoStep_frame]
@[simp] theorem timer_lfoStep (s : State) (x : Voice) : (lfoStep s x).timer = x.timer := by
  rw [lfoStep_frame]
@[simp] theorem vol_lfoStep (s : State) (x : Voice) : (lfoStep s x).vol = x.vol := by
  rw [lfoStep_frame]

/-- The voice after the phase action that this tick selects for it. -/
def acted (s : State) (x : Voice) : Voice := phaseAction s.cfg.num (endTickTest s.tickcnt x)

theorem vel_acted (s : State) (x : Voice) : (acted s x).vel = x.vel := by
  unfold acted
  rw [phaseAction_frame]
  obtain same | released := endTickTest_eq s.tickcnt x
  · rw [same]
  · rw [released]

theorem tickVoice_of_inactive {s : State} {v : Slot} {x : Voice} (h : x.active = false) :
    tickVoice s v x = x := by
  simp [tickVoice, h]

/-- A voice that its phase action cut is left at that. -/
theorem tickVoice_of_cut {s : State} {v : Slot} {x : Voice} (h : x.active = true)
    (cut : (acted s x).active = false) : tickVoice s v x = acted s x := by
  have step : envStep s.cfg (v.toNat :: s.site) s.tickcnt x = acted s x :=
    if_neg (Bool.not_eq_true _ ▸ cut)
  simp [tickVoice, h, step, cut]

/-- A voice that still sounds after its phase action takes its new volume and then its LFO step. -/
theorem tickVoice_of_sounding {s : State} {v : Slot} {x : Voice} (h : x.active = true)
    (sounding : (acted s x).active = true) :
    tickVoice s v x = lfoStep s { acted s x with
      vol := calcVol s.cfg (v.toNat :: s.site) x.vel (acted s x).timer.toInt } := by
  have step : envStep s.cfg (v.toNat :: s.site) s.tickcnt x = { acted s x with
      vol := calcVol s.cfg (v.toNat :: s.site) x.vel (acted s x).timer.toInt } := by
    rw [← vel_acted s x]
    exact if_pos sounding
  simp [tickVoice, h, step, sounding]

/-- Of a voice, a tick writes four registers of the envelope and three of the LFO (40_envelope R116). -/
theorem tickVoice_frame (s : State) (v : Slot) (x : Voice) :
    tickVoice s v x =
      { x with
        active := (tickVoice s v x).active, phase := (tickVoice s v x).phase
        timer := (tickVoice s v x).timer, vol := (tickVoice s v x).vol
        lfoCnt := (tickVoice s v x).lfoCnt, lfoDly := (tickVoice s v x).lfoDly
        lfoOut := (tickVoice s v x).lfoOut } := by
  unfold tickVoice
  split
  next =>
    dsimp only
    split
    next => rw [lfoStep_frame, envStep_frame]
    next => rw [envStep_frame]
  next => rfl

/-- Settles O23: the loop replaces each voice once, from its own state before the loop. -/
theorem tickStepsActiveVoices : Obligations.TickStepsActiveVoices := by
  intro s ready
  refine ⟨s.ticked, exec_tick ready, ticked_frame s, BitVec.toNat_add .., fun v => ?_⟩
  rw [voice_ticked]
  exact ⟨tickVoice_of_inactive, fun active => if_pos active, tickVoice_frame s v (s.voice v)⟩

/-- The envelope registers of an active voice after a tick (40_envelope R117). -/
theorem tickVoice_envelope (s : State) (v : Slot) {x : Voice} (h : x.active = true) :
    (tickVoice s v x).active = (acted s x).active ∧ (tickVoice s v x).phase = (acted s x).phase ∧
    (tickVoice s v x).timer = (acted s x).timer ∧
    (tickVoice s v x).vol =
      if (acted s x).active then calcVol s.cfg (v.toNat :: s.site) x.vel (acted s x).timer.toInt
      else (acted s x).vol := by
  cases sounding : (acted s x).active with
  | true => simp [tickVoice_of_sounding h sounding, sounding]
  | false => simp [tickVoice_of_cut h sounding, sounding]

/-- Settles O24: the test, the action and the volume are those of the statement, by name. -/
theorem onePhaseActionPerTick : Obligations.OnePhaseActionPerTick := by
  intro s v ready _ active
  refine ⟨s.ticked, exec_tick ready, ?_⟩
  rw [voice_ticked]
  exact tickVoice_envelope s v active

end Sys2Proof.Machine
end

section
/-! PROOFS. The phases DECAY and RELEASE of a tick (40_envelope R122, R124). -/

namespace Sys2Proof.Machine

/-- Settles O27: the two branches of the decay step; the timer stays in `T0..0`. -/
theorem decayFallsToSustainLevel : Obligations.DecayFallsToSustainLevel := by
  intro s v ready inv active decaying running
  refine ⟨s.ticked, exec_tick ready, ?_⟩
  obtain ⟨hactive, hphase, htimer, -⟩ := tickVoice_envelope s v active
  have hacted : acted s (s.voice v) = decayStep (s.voice v) := by
    simp only [acted, endTickTest_of_not_passed running, phaseAction, decaying]
  obtain ⟨-, -, voices⟩ := inv
  obtain ⟨-, ⟨-, below⟩, ⟨above, -⟩, -⟩ := voices v
  rw [voice_ticked]
  dsimp only
  rw [hactive, hphase, htimer, hacted]
  unfold decayStep
  dsimp only
  split
  next reached => exact ⟨active, fun _ => ⟨rfl, rfl⟩, fun short => absurd reached (by omega)⟩
  next short =>
    exact ⟨active, fun reached => absurd reached short,
      fun _ => ⟨toInt_ofInt_of_mem_range (by omega) (by omega), decaying⟩⟩

/-- Settles O29: the two branches of the release step, for a voice that is in RELEASE after the end-tick
test. -/
theorem releaseFallsToCut : Obligations.ReleaseFallsToCut := by
  intro s v ready inv active released
  refine ⟨s.ticked, exec_tick ready, ?_⟩
  have hacted : acted s (s.voice v) = releaseStep s.cfg.num { s.voice v with phase := .release } := by
    simp only [acted, endTickTest_of_released released, phaseAction]
  obtain ⟨-, -, voices⟩ := inv
  obtain ⟨-, ⟨-, below⟩, -⟩ := voices v
  rw [voice_ticked]
  dsimp only
  by_cases ends : (s.voice v).psg = true ∨ (s.voice v).timer.toInt - ((s.voice v).rel.toNat : Int) ≤ t0
  · have hcut : acted s (s.voice v) = forceCut s.cfg.num { s.voice v with
        phase := .release, timer := BitVec.ofInt 32 t0 } := hacted.trans (if_pos ends)
    rw [tickVoice_of_cut active (by rw [hcut]; rfl), hcut]
    refine ⟨fun _ => ⟨rfl, rfl, toInt_ofInt_of_mem_range le_rfl (by decide), rfl, rfl, rfl, rfl⟩,
      fun noPulse above => ?_⟩
    rw [noPulse] at ends
    exact absurd above (not_lt.mpr (ends.resolve_left Bool.false_ne_true))
  · have hfall := hacted.trans (if_neg ends)
    obtain ⟨hactive, hphase, htimer, -⟩ := tickVoice_envelope s v active
    rw [hactive, hphase, htimer, hfall]
    refine ⟨fun cut => absurd cut ends, fun _ above => ⟨active, rfl, ?_⟩⟩
    exact toInt_ofInt_of_mem_range above.le (by dsimp only; omega)

end Sys2Proof.Machine
end

section
/-! PROOFS. The volume does not depend on the site of its divisions (40_envelope R118, log 4): neither of
the two quotients is a NaN. -/

namespace Sys2Proof.Machine

/-- A sign and a magnitude up to that of infinity are never a NaN. -/
theorem isNaN_ofSign (neg : Bool) {low : Nat} (h : low ≤ 2047 * 2 ^ 52) :
    F64.isNaN (F64.ofSign neg low) = false := by
  have value : (F64.ofSign neg low).toNat = if neg then 2 ^ 63 + low else low := by
    rw [F64.ofSign, BitVec.toNat_ofNat]
    exact Nat.mod_eq_of_lt (by split <;> omega)
  have exponent : F64.expo (F64.ofSign neg low) = low / 2 ^ 52 := by
    rw [F64.expo, BitVec.extractLsb'_toNat, value, Nat.shiftRight_eq_div_pow]
    split <;> omega
  have fraction : F64.frac (F64.ofSign neg low) = low % 2 ^ 52 := by
    rw [F64.frac, BitVec.extractLsb'_toNat, value, Nat.shiftRight_eq_div_pow]
    split <;> omega
  simp only [F64.isNaN, exponent, fraction, Bool.and_eq_false_iff, beq_eq_false_iff_ne, bne_eq_false_iff_eq]
  omega

theorem isNaN_inf (neg : Bool) : F64.isNaN (F64.inf neg) = false :=
  isNaN_ofSign neg (Nat.le_refl _)

/-- A magnitude that is an infinity from its threshold on is never a NaN. -/
theorem isNaN_saturated (neg : Bool) (low : Nat) :
    F64.isNaN (if 2047 * 2 ^ 52 ≤ low then F64.inf neg else F64.ofSign neg low) = false := by
  split
  next => exact isNaN_inf neg
  next finite => exact isNaN_ofSign neg (not_le.mp finite).le

/-- Rounding never yields a NaN. -/
theorem isNaN_round (neg : Bool) (num den : Nat) : F64.isNaN (F64.round neg num den) = false := by
  unfold F64.round
  exact isNaN_saturated neg _

/-- A divisor by which the quotient of any number is a number: finite and not zero. -/
def F64.isDivisor (b : Sample) : Bool := F64.finite b && !F64.isZero b

/-- Divided by such a divisor a number gives an infinity or a rounded value, and no site is used. -/
theorem div_of_isDivisor {a b : Sample} (number : F64.isNaN a = false) (divisor : F64.isDivisor b = true)
    (p : Site) :
    F64.div p a b =
      if F64.isInf a then F64.inf (F64.sign a != F64.sign b)
      else F64.round (F64.sign a != F64.sign b) (F64.magnitude a * F64.unit) (F64.magnitude b) := by
  simp only [F64.isDivisor, F64.finite, Bool.and_eq_true, bne_iff_ne, Bool.not_eq_true'] at divisor
  obtain ⟨finite, nonzero⟩ := divisor
  have numberB : F64.isNaN b = false := by simp [F64.isNaN, finite]
  have finiteB : F64.isInf b = false := by simp [F64.isInf, finite]
  simp [F64.div, number, numberB, finiteB, nonzero]

theorem div_site {a b : Sample} (number : F64.isNaN a = false) (divisor : F64.isDivisor b = true)
    (p q : Site) : F64.div p a b = F64.div q a b := by
  rw [div_of_isDivisor number divisor, div_of_isDivisor number divisor]

theorem isNaN_div {a b : Sample} (number : F64.isNaN a = false) (divisor : F64.isDivisor b = true)
    (p : Site) : F64.isNaN (F64.div p a b) = false := by
  rw [div_of_isDivisor number divisor]
  split
  · exact isNaN_inf _
  · exact isNaN_round ..

/-- The divisors of the four decibel ranges (40_envelope R120). -/
theorem attenuation_mem (db : Int) : attenuation db ∈ [1, 2, 4, 16] := by
  unfold attenuation
  split_ifs <;> decide

/-- Every divisor of the volume is one, the scale 127 included (40_envelope R118). -/
theorem isDivisor_ofInt : ∀ n ∈ [1, 2, 4, 16, (127 : Int)], F64.isDivisor (F64.ofInt n) = true := by
  decide +kernel

/-- The volume is a function of configuration, velocity and timer. -/
theorem calcVol_site (c : Cfg) (p q : Site) (vel : BitVec 7) (timer : Int) :
    calcVol c p vel timer = calcVol c q vel timer := by
  unfold calcVol
  cases c.num with
  | other k => rfl
  | binary64 =>
    have lin : F64.isNaN (F64.ofInt ((linOf c vel timer).toNat : Int)) = false := isNaN_round ..
    have inner := isDivisor_ofInt _ (List.mem_append_left [127] (attenuation_mem (dbIndex c vel timer)))
    have outer := isDivisor_ofInt 127 (by decide)
    simp only [div_binary64, ofInt_binary64]
    rw [div_site lin inner (0 :: p) (0 :: q)]
    exact div_site (isNaN_div lin inner _) outer _ _

end Sys2Proof.Machine
end

section
/-! PROOFS. The phase SUSTAIN (40_envelope R123): a tick changes nothing of it, and which commands can write
the phase of a voice at all. -/

namespace Sys2Proof.Machine

/-- A voice that sustains and that the end-tick test does not release has no phase action. -/
theorem acted_of_sustain {s : State} {x : Voice} (sustaining : x.phase = .sustain)
    (running : ¬EndTickPassed s x) : acted s x = x := by
  simp only [acted, endTickTest_of_not_passed running, phaseAction, sustaining]

/-- The commands that can write the phase of the voice `v`. -/
def WritesPhase (s : State) (v : Slot) (i : Instr) : Prop :=
  i = .tick ∨ i = .release v ∨ i = .cut v ∨ (i.op = .noteon ∧ v = s.alloc)

/-- The voice `v` is in the same phase in both states. -/
def SamePhase (v : Slot) (s t : State) : Prop := (t.voice v).phase = (s.voice v).phase

theorem SamePhase.refl (v : Slot) (s : State) : SamePhase v s s := rfl

/-- Replacing a voice by one in the same phase changes no voice's phase. -/
theorem samePhase_setVoice {s : State} {u : Slot} {x : Voice} (h : x.phase = (s.voice u).phase) (v : Slot) :
    SamePhase v s (s.setVoice u x) := by
  unfold SamePhase
  rw [voice_setVoice]
  split
  next same => rw [same, h]
  next => rfl

@[simp] theorem phase_blRead (num : Num) (p : Site) (bufsz : Nat) (x : Voice) :
    (blRead num p bufsz x).phase = x.phase := by
  rw [blRead_frame]

@[simp] theorem phase_frameVoice (s : State) (v : Slot) (x : Voice) : (frameVoice s v x).phase = x.phase := by
  unfold frameVoice
  split <;> simp

@[simp] theorem phase_setBq (x : Voice) (stage : BitVec 1) (q : Biquad) : (x.setBq stage q).phase = x.phase := by
  unfold Voice.setBq
  split <;> rfl

/-- Every other command keeps the phase of the voice. -/
theorem exec_samePhase {i : Instr} {s : State} {v : Slot} (h : ¬WritesPhase s v i) :
    Ensures (SamePhase v s) (exec i s) := by
  have refused := SamePhase.refl v s
  have faulted (c w f) : SamePhase v s (s.takeFault c w f) := rfl
  have read (d) : SamePhase v s (s.setRdata d) := rfl
  have voice {u} {x : Voice} (same : x.phase = (s.voice u).phase) := samePhase_setVoice same v
  have another {u} (other : v ≠ u) (x) : SamePhase v s (s.setVoice u x) := by simp [SamePhase, other]
  cases i with
  | nop => simp [exec, execNop, refused]
  | noteon vel mode =>
    have other : v ≠ s.alloc := fun same => h (.inr (.inr (.inr ⟨rfl, same⟩)))
    simp only [exec, execNoteon]
    cases Mode.ofField mode with
    | none => simp [faulted]
    | some m =>
      simp only [ensures_unlessKcfg, ensures_ite, ensures_next, ensures_raise]
      exact ⟨fun _ => refused, fun _ => ⟨fun _ => another other _, fun _ => faulted ..⟩⟩
  | release u =>
    have other : v ≠ u := fun same => h (.inr (.inl (by rw [same])))
    simp [exec, execRelease, refused, another other]
  | cut u =>
    have other : v ≠ u := fun same => h (.inr (.inr (.inl (by rw [same]))))
    simp [exec, execCut, refused, another other]
  | setend u => simp [exec, execSetend, refused, faulted, voice]
  | tick => exact absurd (.inl rfl) h
  | bstep u off ph x =>
    simp only [exec, execBstep]
    cases kernel s.cfg ph <;> simp [refused, faulted, voice, insertStep]
  | bread u => simp [exec, execBread, refused, faulted, voice]
  | vdirect u x => simp [exec, execVdirect, refused, faulted, voice]
  | bqcoef u stage k x =>
    simp only [exec, execBqcoef]
    cases ((s.voice u).bq stage).setCoef k x <;> simp [refused, faulted, voice]
  | lfocfg type =>
    simp only [exec, execLfocfg]
    cases LfoType.ofField type <;> simp [SamePhase, State.voice]
  | vgain u ch x => simp [exec, execVgain, refused, faulted, voice]
  | mgain ch x => simp [exec, execMgain, SamePhase, State.voice]
  | mix => simp [exec, execMix, SamePhase]
  | frame => simp [exec, execFrame, SamePhase]
  | rdreg u r =>
    simp only [exec, execRdreg]
    cases s.readReg u r <;> simp [faulted, read]
  | rdbuf u idx => simp [exec, execRdbuf, refused, faulted, read]
  | rdk ph tap =>
    simp only [exec, execRdk]
    cases (kernel s.cfg ph).bind (·[tap.toNat]?) <;> simp [refused, faulted, read]
  | rdrom tbl idx =>
    simp only [exec, execRdrom]
    cases readRom s.cfg tbl idx <;> simp [faulted, read]

/-- Settles O28: a tick has no action for a sustaining voice and the volume is that of the same timer; of the
other commands only the writers of its phase can end it. -/
theorem sustainIsConstant : Obligations.SustainIsConstant := by
  refine ⟨fun s v ready inv active sustaining running => ?_, fun i s t v h active sustaining ended => ?_⟩
  · obtain ⟨hactive, hphase, htimer, hvol⟩ := tickVoice_envelope s v active
    rw [acted_of_sustain sustaining running] at hactive hphase htimer hvol
    obtain ⟨-, -, voices⟩ := inv
    obtain ⟨-, -, -, vol, -⟩ := voices v
    refine ⟨s.ticked, exec_tick ready, ?_⟩
    rw [voice_ticked, hactive, hphase, htimer, hvol, vol, active]
    exact ⟨rfl, sustaining, rfl, calcVol_site ..⟩
  · by_contra unlisted
    simp only [not_or] at unlisted
    obtain ⟨noTick, noRelease, noCut, noNoteon⟩ := unlisted
    refine ended (Eq.trans ?_ sustaining)
    by_cases tick : i = .tick
    · subst tick
      obtain ⟨-, rfl⟩ | ⟨ready, -⟩ := unlessKcfg_next h
      · rfl
      · cases (exec_tick ready).symm.trans h
        have running : ¬EndTickPassed s (s.voice v) := fun passed => noTick ⟨rfl, passed⟩
        obtain ⟨-, hphase, -⟩ := tickVoice_envelope s v active
        rw [voice_ticked, hphase, acted_of_sustain sustaining running]
    · have silent : ¬WritesPhase s v i := by
        simpa only [WritesPhase, not_or] using ⟨tick, noRelease, noCut, noNoteon⟩
      exact exec_samePhase silent t h

end Sys2Proof.Machine
end

section
/-! PROOFS. `VDIRECT` (42_blr R166). -/

namespace Sys2Proof.Machine

/-- Settles O40: the two checks in their order, and then the write. -/
theorem vdirectSetsOutput : Obligations.VdirectSetsOutput := by
  intro s v x ready
  simp only [EndsInFault, exec, execVdirect, unlessKcfg_ready ready]
  refine ⟨fun finite unlimited => ?_, fun infinite => ?_, fun finite limited => ?_⟩
  · refine ⟨s.setVoice v { s.voice v with vout := x }, ?_, onlyVoiceChanged_setVoice .., by simp⟩
    rw [if_neg (by simp [finite]), if_neg unlimited]
  · rw [if_pos infinite, raise]
  · rw [if_neg (by simp [finite]), if_pos limited, raise]

end Sys2Proof.Machine
end

section
/-! PROOFS. `BSTEP` (42_blr R160 to R162): the taps of a kernel land in slots of their own, so each slot gains
one product. -/

namespace Sys2Proof.Machine

/-- In a state that keeps the invariant, a block that executes commands has a well-formed configuration. -/
theorem malformed_eq_false {s : State} (ready : s.Ready) (inv : s.Inv) : malformed s.cfg = false :=
  inv.1.symm.trans ready

/-- The kernel of a phase is its row of `KBANK`, where that has `KS` taps (41_kernel_bank R140). -/
theorem kernel_eq_some_iff {c : Cfg} {ph : BitVec 6} {taps : List Sample} :
    kernel c ph = some taps ↔ c.kbank[ph.toNat]? = some taps ∧ taps.length = nTaps c := by
  unfold kernel
  cases c.kbank[ph.toNat]? with
  | none => simp
  | some row =>
    simp only [Option.ite_none_right_eq_some, Option.some.injEq]
    exact ⟨fun ⟨length, same⟩ => ⟨same, same ▸ length⟩, fun ⟨same, length⟩ => ⟨same ▸ length, same⟩⟩

/-- Within one turn of the ring no two taps share a slot. -/
theorem ringSlot_ne {bufsz rd off i n : Nat} (after : i < n) (turn : n < i + bufsz) :
    ringSlot bufsz rd off n ≠ ringSlot bufsz rd off i := by
  intro same
  have aligned : i ≡ n [MOD bufsz] := Nat.ModEq.add_left_cancel' (rd + off) same.symm
  have whole := Nat.le_of_dvd (by omega) ((Nat.modEq_iff_dvd' after.le).mp aligned)
  omega

/-- The slot a tap lands in gains the product of that tap and the step, and no other tap touches it
(42_blr R162). -/
theorem read_addTaps (num : Num) (p : Site) {bufsz rd off : Nat} (delta : Sample) (i : Nat) {taps : List Sample}
    {m : Memory} (hm : m.wf num.s0 = true) (fits : taps.length ≤ bufsz) {n : Nat} (hn : n < taps.length) :
    (addTaps num p bufsz rd off delta i taps m).read num.s0 (ringSlot bufsz rd off (i + n)) =
      num.add (2 :: (i + n) :: p) (m.read num.s0 (ringSlot bufsz rd off (i + n)))
        (num.mul (1 :: (i + n) :: p) (taps.getD n num.s0) delta) := by
  induction taps generalizing i n m with
  | nil => simp at hn
  | cons tap taps ih =>
    simp only [List.length_cons] at fits hn
    simp only [addTaps]
    cases n with
    | zero =>
      have untouched k (above : i + 1 ≤ k) (below : k < i + 1 + taps.length) :
          ringSlot bufsz rd off k ≠ ringSlot bufsz rd off i := ringSlot_ne (by omega) (by omega)
      simp only [Nat.add_zero, List.getD_cons_zero]
      rw [read_addTaps_other _ _ _ _ _ _ _ _ _ (write_wf _ _ hm) _ untouched, read_write _ _ _ hm, if_pos rfl]
    | succ n =>
      have other : ringSlot bufsz rd off (i + 1 + n) ≠ ringSlot bufsz rd off i :=
        ringSlot_ne (by omega) (by omega)
      rw [show i + (n + 1) = i + 1 + n by omega, ih (i + 1) (write_wf _ _ hm) (by omega) (by omega),
        read_write _ _ _ hm, if_neg other, List.getD_cons_succ]

/-- A `BSTEP` none of whose checks fails convolves the step into the buffer of its voice. -/
theorem exec_bstep {s : State} {v : Slot} {off : BitVec 10} {ph : BitVec 6} {x : Sample} {taps : List Sample}
    (ready : s.Ready) (finite : s.cfg.num.finite x = true) (limited : (s.voice v).mode = .blstep)
    (fits : off.toNat + nTaps s.cfg ≤ nSlots s.cfg) (row : kernel s.cfg ph = some taps) :
    exec (.bstep v off ph x) s =
      .next (s.setVoice v
        (insertStep s.cfg.num s.site (nSlots s.cfg) off.toNat taps x (s.voice v))) := by
  simp [exec, execBstep, unlessKcfg_ready ready, finite, limited, not_lt.mpr fits, row]

/-- Settles O36: the three checks in their order, and what the convolution leaves in each slot. -/
theorem bstepConvolvesStep : Obligations.BstepConvolvesStep := by
  intro s v off ph x ready
  refine ⟨fun inv finite limited fits => ?_, fun infinite => ?_, fun finite unlimited => ?_,
    fun finite limited beyond => ?_⟩
  · obtain ⟨taps, row⟩ := kernel_of_wellFormed (malformed_eq_false ready inv) ph
    obtain ⟨stored, length⟩ := kernel_eq_some_iff.mp row
    obtain ⟨-, -, voices⟩ := inv
    obtain ⟨-, -, -, -, wf, -⟩ := voices v
    refine ⟨_, taps, stored, length, exec_bstep ready finite limited fits row, onlyVoiceChanged_setVoice ..,
      ?_⟩
    rw [voice_setVoice, if_pos rfl]
    refine ⟨rfl, fun n hn => ?_, fun j untouched => ?_⟩
    · have gained := read_addTaps s.cfg.num s.site (rd := (s.voice v).blRd) (off := off.toNat)
        (stepDelta s.cfg.num s.site (s.voice v) x) 0 wf (by omega : taps.length ≤ nSlots s.cfg) (length ▸ hn)
      rwa [Nat.zero_add] at gained
    · exact read_addTaps_other _ _ _ _ _ _ _ _ _ wf j fun n _ hn => (untouched n (by omega)).symm
  all_goals simp only [EndsInFault, exec, execBstep, unlessKcfg_ready ready]
  · rw [if_pos infinite, raise]
  · rw [if_neg (by simp [finite]), if_pos unlimited, raise]
  · rw [if_neg (by simp [finite]), if_neg (not_not.mpr limited), if_pos beyond, raise]

end Sys2Proof.Machine
end

section
/-! PROOFS. What a command makes of a voice: one inversion for every command, from which claims on the writers
of a voice register follow (10_state section 3). -/

namespace Sys2Proof.Machine

/-- `VoiceUpdate s v i y`: the command `i`, executed in `s`, may leave `y` in the slot `v`.  A command that is
refused, that faults or that does not write the slot keeps it. -/
inductive VoiceUpdate (s : State) (v : Slot) : Instr → Voice → Prop where
  | keep (i) : VoiceUpdate s v i (s.voice v)
  | noteon {vel mode psg held bqen atk dec rel sus m} : v = s.alloc → Mode.ofField mode = some m →
      VoiceUpdate s v (.noteon vel mode psg held bqen atk dec rel sus)
        (newNote s.cfg s.site vel m psg held bqen atk dec rel sus (s.voice v))
  | release : VoiceUpdate s v (.release v) { s.voice v with phase := .release }
  | cut : VoiceUpdate s v (.cut v) (forceCut s.cfg.num (s.voice v))
  | setend {endTick mbz} : VoiceUpdate s v (.setend v endTick mbz) { s.voice v with endTick := endTick }
  | tick : VoiceUpdate s v .tick (tickVoice s v (s.voice v))
  | bstep {off ph x taps} : kernel s.cfg ph = some taps →
      VoiceUpdate s v (.bstep v off ph x)
        (insertStep s.cfg.num s.site (nSlots s.cfg) off.toNat taps x (s.voice v))
  | bread : VoiceUpdate s v (.bread v)
      (blRead s.cfg.num (v.toNat :: 0 :: s.site) (nSlots s.cfg) (s.voice v))
  | vdirect {x} : VoiceUpdate s v (.vdirect v x) { s.voice v with vout := x }
  | bqcoef {stage k x q} : ((s.voice v).bq stage).setCoef k x = some q →
      VoiceUpdate s v (.bqcoef v stage k x) ((s.voice v).setBq stage q)
  | vgainLeft {x} : VoiceUpdate s v (.vgain v 0 x) { s.voice v with vgl := x }
  | vgainRight {x} : VoiceUpdate s v (.vgain v 1 x) { s.voice v with vgr := x }
  | frame : framed (s.voice v) = true →
      VoiceUpdate s v .frame (blRead s.cfg.num (v.toNat :: 0 :: s.site) (nSlots s.cfg) (s.voice v))

/-- Every slot of `t` holds what the command `i`, executed in `s`, may leave there. -/
def VoicesUpdated (i : Instr) (s t : State) : Prop := ∀ v : Slot, VoiceUpdate s v i (t.voice v)

theorem voicesUpdated_of_same {i : Instr} {s t : State} (same : t.voices = s.voices) :
    VoicesUpdated i s t := by
  intro v
  simp only [State.voice, same]
  exact .keep i

theorem voicesUpdated_setVoice {i : Instr} {s : State} {u : Slot} {y : Voice} (h : VoiceUpdate s u i y) :
    VoicesUpdated i s (s.setVoice u y) := by
  intro v
  rw [voice_setVoice]
  split
  next same => exact same ▸ h
  next => exact .keep i

/-- The first loop of `FRAME` reads out the voices it advances and no other (45_mixer R216). -/
theorem voiceUpdate_frameVoice (s : State) (v : Slot) :
    VoiceUpdate s v .frame (frameVoice s v (s.voice v)) := by
  unfold frameVoice
  split
  next advanced => exact .frame advanced
  next => exact .keep _

/-- Everything a command can make of a voice. -/
theorem exec_voicesUpdated (i : Instr) (s : State) : Ensures (VoicesUpdated i s) (exec i s) := by
  have refused : VoicesUpdated i s s := voicesUpdated_of_same rfl
  have faulted c w f : VoicesUpdated i s (s.takeFault c w f) := voicesUpdated_of_same rfl
  have read d : VoicesUpdated i s (s.setRdata d) := voicesUpdated_of_same rfl
  have voice {u y} := @voicesUpdated_setVoice i s u y
  cases i with
  | nop => simp [exec, execNop, refused]
  | noteon vel mode =>
    simp only [exec, execNoteon]
    cases legal : Mode.ofField mode with
    | none => simp [faulted]
    | some m =>
      simp only [ensures_unlessKcfg, ensures_ite, ensures_next, ensures_raise]
      exact ⟨fun _ => refused, fun _ => ⟨fun _ => voice (.noteon rfl legal), fun _ => faulted _ _ _⟩⟩
  | release v => simp [exec, execRelease, refused, voice .release]
  | cut v => simp [exec, execCut, refused, voice .cut]
  | setend v => simp [exec, execSetend, refused, faulted, voice .setend]
  | tick =>
    simp only [exec, execTick, ensures_unlessKcfg, ensures_next]
    exact ⟨fun _ => refused, fun _ v => (voice_ticked s v).symm ▸ .tick⟩
  | bstep v off ph x =>
    simp only [exec, execBstep]
    cases row : kernel s.cfg ph with
    | none => simp [refused, faulted]
    | some taps => simp [refused, faulted, voice (.bstep row)]
  | bread v => simp [exec, execBread, refused, faulted, voice .bread]
  | vdirect v x => simp [exec, execVdirect, refused, faulted, voice .vdirect]
  | bqcoef v stage k x =>
    simp only [exec, execBqcoef]
    cases coefficient : ((s.voice v).bq stage).setCoef k x with
    | none => simp [faulted]
    | some q => simp [refused, faulted, voice (.bqcoef coefficient)]
  | lfocfg type =>
    simp only [exec, execLfocfg]
    cases LfoType.ofField type with
    | none => simp [faulted]
    | some m => simp [refused, faulted, voicesUpdated_of_same]
  | vgain v ch x =>
    simp only [exec, execVgain, ensures_unlessKcfg, ensures_ite, ensures_next, ensures_raise]
    refine ⟨fun _ => refused, fun _ => ⟨fun _ => faulted _ _ _, fun _ => ⟨fun left => ?_, fun right => ?_⟩⟩⟩
    · exact voice (left ▸ .vgainLeft)
    · exact voice (channel_eq_one ch right ▸ .vgainRight)
  | mgain ch x => simp [exec, execMgain, refused, faulted, voicesUpdated_of_same]
  | mix =>
    simp only [exec, execMix, ensures_unlessKcfg, ensures_next]
    exact ⟨fun _ => refused, fun _ => voicesUpdated_of_same rfl⟩
  | frame =>
    simp only [exec, execFrame, ensures_unlessKcfg, ensures_ite, ensures_next, ensures_fault]
    refine ⟨fun _ => refused, fun _ => ⟨fun _ v => ?_, fun _ => trivial⟩⟩
    rw [voice_mixOutputs, voice_mapVoices]
    exact voiceUpdate_frameVoice s v
  | rdreg v r =>
    simp only [exec, execRdreg]
    cases s.readReg v r <;> simp [faulted, read]
  | rdbuf v idx => simp [exec, execRdbuf, refused, faulted, read]
  | rdk ph tap =>
    simp only [exec, execRdk]
    cases (kernel s.cfg ph).bind (·[tap.toNat]?) <;> simp [refused, faulted, read]
  | rdrom tbl idx =>
    simp only [exec, execRdrom]
    cases readRom s.cfg tbl idx <;> simp [faulted, read]

end Sys2Proof.Machine
end

section
/-! PROOFS. `BREAD` and the integral `BL_ACC` (42_blr R164, R165). -/

namespace Sys2Proof.Machine

@[simp] theorem blAcc_blRead (num : Num) (p : Site) (bufsz : Nat) (x : Voice) :
    (blRead num p bufsz x).blAcc = integrate num p x := by
  rw [blRead_frame]

@[simp] theorem blRd_blRead (num : Num) (p : Site) (bufsz : Nat) (x : Voice) :
    (blRead num p bufsz x).blRd = (x.blRd + 1) % bufsz := by
  rw [blRead_frame]

@[simp] theorem buf_blRead (num : Num) (p : Site) (bufsz : Nat) (x : Voice) :
    (blRead num p bufsz x).buf = x.buf.write num.s0 x.blRd num.s0 := by
  rw [blRead_frame]

/-- With the filter the integral runs through the chain: its output is `VOUT`, and the sections are those it
leaves.  Integrate, drain and advance come first and do not touch the sections (42_blr R165). -/
theorem blRead_filter (num : Num) (p : Site) (bufsz : Nat) (x : Voice) (h : x.bqen = true) :
    blRead num p bufsz x =
      { drain num p bufsz x with
        vout := (bqChain num (1 :: p) x (integrate num p x)).1
        bq0 := (bqChain num (1 :: p) x (integrate num p x)).2.bq0
        bq1 := (bqChain num (1 :: p) x (integrate num p x)).2.bq1 } :=
  if_pos h

@[simp] theorem blAcc_tickVoice (s : State) (v : Slot) (x : Voice) : (tickVoice s v x).blAcc = x.blAcc := by
  rw [tickVoice_frame]

@[simp] theorem blAcc_setBq (x : Voice) (stage : BitVec 1) (q : Biquad) : (x.setBq stage q).blAcc = x.blAcc := by
  unfold Voice.setBq
  split <;> rfl

/-- A `BREAD` of a band-limited voice whose read slot exists reads it out. -/
theorem exec_bread {s : State} {v : Slot} (ready : s.Ready) (limited : (s.voice v).mode = .blstep)
    (slot : (s.voice v).blRd < nSlots s.cfg) :
    exec (.bread v) s =
      .next (s.setVoice v (blRead s.cfg.num (v.toNat :: 0 :: s.site) (nSlots s.cfg) (s.voice v))) := by
  simp [exec, execBread, unlessKcfg_ready ready, limited, readable, slot]

/-- Of the ways a command can update a voice, a new note resets the integral, a read-out adds the current slot
to it, and every other keeps it. -/
theorem VoiceUpdate.blAcc_cases {s : State} {v : Slot} {i : Instr} {y : Voice} (h : VoiceUpdate s v i y) :
    y.blAcc = (s.voice v).blAcc ∨
    (i.op = .noteon ∧ v = s.alloc ∧ y.blAcc = s.cfg.num.s0) ∨
    ((i = .bread v ∨ i = .frame) ∧
      y.blAcc = integrate s.cfg.num (v.toNat :: 0 :: s.site) (s.voice v)) := by
  cases h with
  | noteon allocated _ => exact .inr (.inl ⟨rfl, allocated, rfl⟩)
  | bread => exact .inr (.inr ⟨.inl rfl, blAcc_blRead ..⟩)
  | frame _ => exact .inr (.inr ⟨.inr rfl, blAcc_blRead ..⟩)
  | tick => exact .inl (blAcc_tickVoice ..)
  | bqcoef _ => exact .inl (blAcc_setBq ..)
  | _ => exact .inl rfl

/-- Settles O37: the read-out field by field, and the inversion of every command for the writers. -/
theorem breadIntegratesAndDrains : Obligations.BreadIntegratesAndDrains := by
  refine ⟨fun s v ready => ⟨fun inv limited => ?_, fun unlimited => ?_⟩, fun i s t v h moved => ?_⟩
  · have wellFormed := malformed_eq_false ready inv
    obtain ⟨-, -, voices⟩ := inv
    obtain ⟨-, -, -, -, wf, bounds⟩ := voices v
    refine ⟨_, exec_bread ready limited (bounds wellFormed).1, onlyVoiceChanged_setVoice .., ?_⟩
    rw [voice_setVoice, if_pos rfl]
    refine ⟨?_, blAcc_blRead .., blRd_blRead .., fun j => ?_, fun bypassed => ?_, fun filtered => ?_⟩
    · rw [blRead_frame]
    · rw [buf_blRead, read_write _ _ _ wf]
    · rw [blRead_bypass _ _ _ _ bypassed]
      exact ⟨rfl, rfl, rfl⟩
    · rw [blRead_filter _ _ _ _ filtered]
      exact ⟨rfl, rfl, rfl⟩
  · simp only [EndsInFault, exec, execBread, unlessKcfg_ready ready]
    rw [if_pos unlimited, raise]
  · exact (exec_voicesUpdated i s t h v).blAcc_cases.resolve_left moved

end Sys2Proof.Machine
end

section
/-! PROOFS. The filter (43_biquad): a coefficient load keeps the filter state (R181), and a filtered read-out
runs the chain and is what advances it (R182 to R184). -/

namespace Sys2Proof.Machine

/-! ## The section a coefficient load leaves -/

/-- The coefficient asked for takes the value, and the others stay (43_biquad R181). -/
theorem coef_setCoef {q q' : Biquad} {k : BitVec 3} {x : Sample} (h : q.setCoef k x = some q') (n : Fin 5) :
    q'.coef n = if n.val = k.toNat then x else q.coef n := by
  unfold Biquad.setCoef at h
  split at h
  case h_6 => cases h
  all_goals
    next number =>
      cases h
      rw [number]
      fin_cases n <;> rfl

theorem hist_setCoef {q q' : Biquad} {k : BitVec 3} {x : Sample} (h : q.setCoef k x = some q') (j : Fin 4) :
    q'.hist j = q.hist j := by
  unfold Biquad.setCoef at h
  split at h
  case h_6 => cases h
  all_goals
    cases h
    rfl

/-! ## The section of a stage -/

theorem setBq_zero (x : Voice) (q : Biquad) : x.setBq 0 q = { x with bq0 := q } := rfl

theorem setBq_one (x : Voice) (q : Biquad) : x.setBq 1 q = { x with bq1 := q } := rfl

theorem setBq_frame (x : Voice) (stage : BitVec 1) (q : Biquad) :
    x.setBq stage q = { x with bq0 := (x.setBq stage q).bq0, bq1 := (x.setBq stage q).bq1 } := by
  unfold Voice.setBq
  split <;> rfl

/-- A load changes the one coefficient of the one stage (43_biquad R181). -/
theorem coef_setBq_setCoef {x : Voice} {stage : BitVec 1} {k : BitVec 3} {value : Sample} {q : Biquad}
    (h : (x.bq stage).setCoef k value = some q) (n : Fin 5) :
    (x.setBq stage q).bq0.coef n = (if stage = 0 ∧ n.val = k.toNat then value else x.bq0.coef n) ∧
    (x.setBq stage q).bq1.coef n = (if stage = 1 ∧ n.val = k.toNat then value else x.bq1.coef n) := by
  have gained := coef_setCoef h n
  by_cases first : stage = 0
  · subst first
    simp only [setBq_zero, true_and]
    exact ⟨gained, (if_neg (by simp)).symm⟩
  · obtain rfl := channel_eq_one stage first
    simp only [setBq_one, true_and]
    exact ⟨(if_neg (by simp)).symm, gained⟩

/-! ## The filter state of a voice -/

/-- Two contents of a voice slot agree in the filter state of both sections (10_state R43). -/
def SameFilterState (x y : Voice) : Prop :=
  ∀ j : Fin 4, y.bq0.hist j = x.bq0.hist j ∧ y.bq1.hist j = x.bq1.hist j

theorem sameFilterState_of_same_sections {x y : Voice} (first : y.bq0 = x.bq0) (second : y.bq1 = x.bq1) :
    SameFilterState x y := by
  intro j
  rw [first, second]
  exact ⟨rfl, rfl⟩

theorem sameFilterState_setBq_setCoef {x : Voice} {stage : BitVec 1} {k : BitVec 3} {value : Sample} {q : Biquad}
    (h : (x.bq stage).setCoef k value = some q) : SameFilterState x (x.setBq stage q) := by
  intro j
  by_cases first : stage = 0
  · subst first
    exact ⟨hist_setCoef h j, rfl⟩
  · obtain rfl := channel_eq_one stage first
    exact ⟨rfl, hist_setCoef h j⟩

theorem sameFilterState_tickVoice (s : State) (v : Slot) (x : Voice) : SameFilterState x (tickVoice s v x) := by
  rw [tickVoice_frame]
  exact sameFilterState_of_same_sections rfl rfl

/-- A read-out moves the filter state only through the chain: a bypassed one is not run (43_biquad R184). -/
theorem blRead_filterState_cases (num : Num) (p : Site) (bufsz : Nat) (x : Voice) :
    SameFilterState x (blRead num p bufsz x) ∨ x.bqen = true := by
  cases filtered : x.bqen with
  | true => exact .inr rfl
  | false =>
    rw [blRead_bypass _ _ _ _ filtered]
    exact .inl (sameFilterState_of_same_sections rfl rfl)

/-- Of the ways a command can update a voice, a new note and a filtered read-out are the two that can move the
filter state. -/
theorem VoiceUpdate.filterState_cases {s : State} {v : Slot} {i : Instr} {y : Voice} (h : VoiceUpdate s v i y) :
    SameFilterState (s.voice v) y ∨
    (i.op = .noteon ∧ v = s.alloc) ∨
    ((i = .bread v ∨ i = .frame) ∧ (s.voice v).bqen = true) := by
  cases h with
  | noteon allocated _ => exact .inr (.inl ⟨rfl, allocated⟩)
  | bread => exact (blRead_filterState_cases ..).imp_right fun filtered => .inr ⟨.inl rfl, filtered⟩
  | frame _ => exact (blRead_filterState_cases ..).imp_right fun filtered => .inr ⟨.inr rfl, filtered⟩
  | tick => exact .inl (sameFilterState_tickVoice s v _)
  | bqcoef loaded => exact .inl (sameFilterState_setBq_setCoef loaded)
  | _ => exact .inl (sameFilterState_of_same_sections rfl rfl)

/-! ## The obligations -/

/-- Settles O38: the read-out hands the integral to the chain, whose stages evaluate in the order stated. -/
theorem readOutRunsBiquadChain : Obligations.ReadOutRunsBiquadChain := by
  intro s v ready inv limited filtered
  have wellFormed := malformed_eq_false ready inv
  obtain ⟨-, -, voices⟩ := inv
  obtain ⟨-, -, -, -, -, bounds⟩ := voices v
  refine ⟨_, exec_bread ready limited (bounds wellFormed).1, ?_⟩
  rw [voice_setVoice, if_pos rfl, blRead_filter _ _ _ _ filtered]
  exact ⟨rfl, rfl, rfl⟩

/-- Settles O39, by the inversion of every command. -/
theorem filterStateMovesOnlyOnRead : Obligations.FilterStateMovesOnlyOnRead := by
  rintro i s t v h ⟨j, moved⟩
  refine (exec_voicesUpdated i s t h v).filterState_cases.resolve_left fun same => ?_
  obtain ⟨first, second⟩ := same j
  exact moved.elim (absurd first) (absurd second)

/-- A `BQCOEF` none of whose checks fails stores the section with its coefficient loaded. -/
theorem exec_bqcoef {s : State} {v : Slot} {stage : BitVec 1} {k : BitVec 3} {x : Sample} {q : Biquad}
    (ready : s.Ready) (finite : s.cfg.num.finite x = true)
    (loaded : ((s.voice v).bq stage).setCoef k x = some q) :
    exec (.bqcoef v stage k x) s = .next (s.setVoice v ((s.voice v).setBq stage q)) := by
  simp [exec, execBqcoef, loaded, unlessKcfg_ready ready, finite]

/-- A legal coefficient number has a section it leaves (43_biquad R181). -/
theorem exists_setCoef (q : Biquad) {k : BitVec 3} (legal : k.toNat ≤ 4) (x : Sample) :
    ∃ q', q.setCoef k x = some q' :=
  Option.ne_none_iff_exists'.mp fun absent => absurd ((setCoef_eq_none_iff q k x).mp absent) (by omega)

/-- Settles O41: a coefficient number above 4 is illegal whatever else holds; a legal one loads the section of
its stage if the value is finite. -/
theorem bqcoefLoadsCoefficient : Obligations.BqcoefLoadsCoefficient := by
  refine fun s v stage k x => ⟨fun ready legal finite => ?_, fun reserved => ?_, fun ready legal infinite => ?_⟩
  · obtain ⟨q, loaded⟩ := exists_setCoef ((s.voice v).bq stage) legal x
    refine ⟨_, exec_bqcoef ready finite loaded, onlyVoiceChanged_setVoice .., ?_⟩
    rw [voice_setVoice, if_pos rfl]
    exact ⟨setBq_frame .., coef_setBq_setCoef loaded, sameFilterState_setBq_setCoef loaded⟩
  · exact exec_of_not_wellFormed (by simpa [Instr.wellFormed] using reserved) s
  · obtain ⟨q, loaded⟩ := exists_setCoef ((s.voice v).bq stage) legal x
    simp [EndsInFault, exec, execBqcoef, loaded, unlessKcfg_ready ready, infinite, raise]

end Sys2Proof.Machine
end

section
/-! PROOFS. The LFO unit (44_lfo): the configuration write (R191), the sine and the scaled value (R195, R196),
and the counters of a voice after a tick (R192 to R194). -/

namespace Sys2Proof.Machine

/-! ## `LFOCFG` -/

/-- Every field value but 3 selects the LFO type it is the number of (10_state R29). -/
theorem exists_lfoType_of_ne_three :
    ∀ field : BitVec 2, field ≠ 3 → ∃ t, LfoType.ofField field = some t ∧ t.num = field := by
  decide

/-- Settles O35: a legal type is selected by its number, and then only the must-be-0 field is checked. -/
theorem lfocfgWritesConfiguration : Obligations.LfocfgWritesConfiguration := by
  refine fun s type depth range speed delay mbz =>
    ⟨fun ready legal zero => ?_, fun reserved => ?_, fun ready legal nonzero => ?_⟩
  · obtain ⟨t, selected, number⟩ := exists_lfoType_of_ne_three type legal
    simp only [exec, execLfocfg, selected, unlessKcfg_ready ready, if_neg (not_not.mpr zero)]
    exact ⟨_, rfl, rfl, number⟩
  · exact exec_of_not_wellFormed (by simp [Instr.wellFormed, reserved]) s
  · obtain ⟨t, selected, -⟩ := exists_lfoType_of_ne_three type legal
    simp only [EndsInFault, exec, execLfocfg, selected, unlessKcfg_ready ready, if_pos nonzero]
    rfl

/-! ## The sine -/

/-- An entry of the quarter table as a number. -/
def quarterSine (c : Cfg) (k : Nat) : Int := ((c.qsin.toList.getD k 0).toNat : Int)

/-- The entry a coarse phase reads: each quadrant runs over the table up or down (44_lfo R195). -/
def quarterIndex (n : Nat) : Nat :=
  if n < 32 then n else if n < 64 then 64 - n else if n < 96 then n - 64 else 128 - n

theorem quarterIndex_le (x : BitVec 7) : quarterIndex x.toNat ≤ 32 := by
  have := x.isLt
  unfold quarterIndex
  split_ifs <;> omega

theorem getElem_qsin (c : Cfg) {k : Nat} (h : k < 36) : ((c.qsin[k]).toNat : Int) = quarterSine c k := by
  simp [quarterSine, h]

/-- The sine is the table's entry, negated in the second half of the period. -/
theorem sinIdx_eq (c : Cfg) (x : BitVec 7) :
    sinIdx c x =
      if x.toNat < 64 then quarterSine c (quarterIndex x.toNat)
      else -quarterSine c (quarterIndex x.toNat) := by
  simp only [sinIdx, getElem_qsin, quarterIndex]
  split_ifs <;> omega

theorem natAbs_sinIdx_le (c : Cfg) (x : BitVec 7) : (sinIdx c x).natAbs ≤ 255 := by
  have entry := (c.qsin.toList.getD (quarterIndex x.toNat) 0).isLt
  rw [sinIdx_eq, quarterSine]
  split <;> omega

/-- Settles O34: a coarse phase reads the one entry `quarterIndex`, which is at most 32. -/
theorem sineFromQuarterTable : Obligations.SineFromQuarterTable := by
  intro c x
  refine ⟨fun first => ?_, fun low high => ?_, fun low high => ?_, fun last => ?_, natAbs_sinIdx_le c x,
    fun c' same => ?_⟩
  · rw [sinIdx_eq, if_pos (by omega), quarterIndex, if_pos first]
    rfl
  · rw [sinIdx_eq, if_pos high, quarterIndex, if_neg (by omega), if_pos high]
    rfl
  · rw [sinIdx_eq, if_neg (by omega), quarterIndex, if_neg (by omega), if_neg (by omega), if_pos high]
    rfl
  · rw [sinIdx_eq, if_neg (by omega), quarterIndex, if_neg (by omega), if_neg (by omega), if_neg (by omega)]
    rfl
  · have entry : quarterSine c' (quarterIndex x.toNat) = quarterSine c (quarterIndex x.toNat) := by
      rw [quarterSine, same _ (quarterIndex_le x), quarterSine]
    rw [sinIdx_eq, sinIdx_eq, entry]

/-! ## The scaled value -/

theorem toNat_coarse (cnt : BitVec 15) : (coarse cnt).toNat = cnt.toNat / 256 := by
  have := cnt.isLt
  rw [coarse, BitVec.extractLsb'_toNat, Nat.shiftRight_eq_div_pow]
  omega

/-- The product of sine, depth and range (44_lfo R196). -/
def lfoProduct (s : State) (x : Voice) : Int :=
  sinIdx s.cfg (coarse x.lfoCnt) * (s.lfoDepth.toNat : Int) * (s.lfoRange.toNat : Int)

/-- The product in the scale of the LFO's type, not yet shifted (44_lfo R196). -/
def lfoScaled (s : State) (x : Voice) : Int :=
  if s.lfoType = .volume then lfoProduct s x * 60 else lfoProduct s x * 64

theorem natAbs_lfoProduct_le (s : State) (x : Voice) : (lfoProduct s x).natAbs ≤ 255 * 255 * 255 := by
  rw [lfoProduct, Int.natAbs_mul, Int.natAbs_mul, Int.natAbs_natCast, Int.natAbs_natCast]
  exact Nat.mul_le_mul
    (Nat.mul_le_mul (natAbs_sinIdx_le _ _) (Nat.le_of_lt_succ s.lfoDepth.isLt))
    (Nat.le_of_lt_succ s.lfoRange.isLt)

theorem natAbs_lfoScaled_lt (s : State) (x : Voice) : (lfoScaled s x).natAbs < 2 ^ 31 := by
  have := natAbs_lfoProduct_le s x
  unfold lfoScaled
  split <;> omega

/-- Scaling comes before the shift, which is a floor. -/
theorem lfoScale_lfoProduct (s : State) (x : Voice) :
    lfoScale s.lfoType (lfoProduct s x) = Int.fdiv (lfoScaled s x) 16384 := by
  rw [Int.fdiv_eq_ediv_of_nonneg _ (by decide), lfoScaled]
  cases s.lfoType <;> rfl

theorem lfoValue_eq (s : State) (x : Voice) :
    lfoValue s x =
      if s.lfoDepth = 0 ∨ x.lfoDly.toNat < s.lfoDelay.toNat then 0 else Int.fdiv (lfoScaled s x) 16384 := by
  rw [← lfoScale_lfoProduct]
  rfl

/-- Settles O33: three factors of at most 255, times at most 64. -/
theorem lfoValueIsScaledProduct : Obligations.LfoValueIsScaledProduct := fun s x =>
  ⟨toNat_coarse _, natAbs_lfoProduct_le s x, natAbs_lfoScaled_lt s x, lfoValue_eq s x⟩

/-- The value fits the s32 it is kept in (10_state R39). -/
theorem toInt_ofInt_lfoValue (s : State) (x : Voice) :
    (BitVec.ofInt 32 (lfoValue s x)).toInt = lfoValue s x := by
  have bound := natAbs_lfoScaled_lt s x
  have range : -2 ^ 31 ≤ lfoValue s x ∧ lfoValue s x < 2 ^ 31 := by
    rw [lfoValue_eq, Int.fdiv_eq_ediv_of_nonneg _ (by decide)]
    split <;> omega
  exact BitVec.toInt_ofInt_eq_self (by decide) range.1 range.2

/-! ## The counters -/

/-- While the gate is shut the delay counts and the phase stays (44_lfo R194). -/
theorem lfoStep_of_gated {s : State} {x : Voice} (gated : x.lfoDly.toNat < s.lfoDelay.toNat) :
    (lfoStep s x).lfoDly.toNat = x.lfoDly.toNat + 1 ∧ (lfoStep s x).lfoCnt = x.lfoCnt := by
  have advanced : lfoAdvance s x = { x with lfoDly := x.lfoDly + 1 } := if_pos gated
  have := s.lfoDelay.isLt
  simp only [lfoStep, advanced, BitVec.toNat_add, and_true]
  exact Nat.mod_eq_of_lt (show x.lfoDly.toNat + 1 < 2 ^ 16 by omega)

/-- Once it is open the delay stays and the phase advances (44_lfo R193). -/
theorem lfoStep_of_open {s : State} {x : Voice} (opened : ¬x.lfoDly.toNat < s.lfoDelay.toNat) :
    (lfoStep s x).lfoDly = x.lfoDly ∧
    (lfoStep s x).lfoCnt.toNat = (x.lfoCnt.toNat + s.lfoSpeed.toNat * 64) % 0x8000 := by
  have advanced : lfoAdvance s x =
      { x with lfoCnt := x.lfoCnt + BitVec.ofNat 15 (s.lfoSpeed.toNat * 2 ^ 6) } := if_neg opened
  simp [lfoStep, advanced]

/-- The value is that of the new counters, which it does not write (44_lfo R192). -/
theorem toInt_lfoOut_lfoStep (s : State) (x : Voice) :
    (lfoStep s x).lfoOut.toInt = lfoValue s (lfoStep s x) :=
  toInt_ofInt_lfoValue s (lfoAdvance s x)

/-- Two voices have the same LFO registers. -/
def SameLfo (x y : Voice) : Prop := y.lfoDly = x.lfoDly ∧ y.lfoCnt = x.lfoCnt ∧ y.lfoOut = x.lfoOut

theorem sameLfo_envStep (c : Cfg) (p : Site) (n : BitVec 32) (x : Voice) : SameLfo x (envStep c p n x) := by
  rw [envStep_frame]
  exact ⟨rfl, rfl, rfl⟩

/-- A tick ends for a voice in one of two ways: it is silent and its LFO registers stay, or it sounds and
its LFO step was made from the counters it had (40_envelope R116, 44_lfo R192). -/
theorem tickVoice_lfo_cases (s : State) (v : Slot) (x : Voice) :
    ((tickVoice s v x).active = false ∧ SameLfo x (tickVoice s v x)) ∨
    ((tickVoice s v x).active = true ∧ ∃ y, SameLfo x y ∧ tickVoice s v x = lfoStep s y) := by
  have same := sameLfo_envStep s.cfg (v.toNat :: s.site) s.tickcnt x
  unfold tickVoice
  dsimp only
  split
  next =>
    split
    next sounding => exact .inr ⟨by rwa [active_lfoStep], _, same, rfl⟩
    next cut => exact .inl ⟨Bool.not_eq_true _ ▸ cut, same⟩
  next inactive => exact .inl ⟨Bool.not_eq_true _ ▸ inactive, rfl, rfl, rfl⟩

/-- Settles O32: the step is made from the counters before the tick, since the envelope keeps them. -/
theorem lfoCountersAdvance : Obligations.LfoCountersAdvance := by
  intro s v ready
  refine ⟨s.ticked, exec_tick ready, ?_⟩
  rw [voice_ticked]
  obtain ⟨silent, same⟩ | ⟨sounding, y, ⟨dly, cnt, -⟩, stepped⟩ := tickVoice_lfo_cases s v (s.voice v)
  · exact ⟨fun sounding => absurd (silent.symm.trans sounding) Bool.false_ne_true, fun _ => same⟩
  · refine ⟨fun _ => ?_, fun silent => absurd (silent.symm.trans sounding) Bool.false_ne_true⟩
    rw [stepped, ← dly, ← cnt]
    refine ⟨?_, toInt_lfoOut_lfoStep s y⟩
    split
    next gated => exact lfoStep_of_gated gated
    next opened => exact lfoStep_of_open opened

end Sys2Proof.Machine
end

section
/-! PROOFS. `MIX` (45_mixer R214): the running sums over the slots, and that the command reads neither output
it writes. -/

namespace Sys2Proof.Machine

theorem exec_mix {s : State} (ready : s.Ready) : exec .mix s = .next (mixOutputs (1 :: s.site) s) :=
  unlessKcfg_ready ready _

/-- `sl` and `sr` of `MIX` after the turns of the slots below `n` (45_mixer R214). -/
def mixSumBelow (p : Site) (s : State) (n : Nat) : Sample × Sample :=
  (slots.take n).foldl (fun sum v => mixVoice s.cfg.num (v.toNat :: 0 :: p) sum (s.voice v))
    (s.cfg.num.s0, s.cfg.num.s0)

theorem mixSumBelow_sixteen (p : Site) (s : State) : mixSumBelow p s 16 = mixSum p s := rfl

/-- The slots are visited in ascending order: `v` has its turn after the slots below it. -/
theorem take_slots_succ : ∀ v : Slot, slots.take (v.toNat + 1) = slots.take v.toNat ++ [v] := by decide

theorem mixSumBelow_succ (p : Site) (s : State) (v : Slot) :
    mixSumBelow p s (v.toNat + 1) =
      mixVoice s.cfg.num (v.toNat :: 0 :: p) (mixSumBelow p s v.toNat) (s.voice v) := by
  rw [mixSumBelow, take_slots_succ, List.foldl_append]
  rfl

theorem mixVoice_of_active (num : Num) (p : Site) (sum : Sample × Sample) {x : Voice} (h : x.active = true) :
    mixVoice num p sum x =
      (num.add (3 :: p) sum.1 (num.mul (1 :: p) (num.mul (0 :: p) x.vout x.vol) x.vgl),
        num.add (4 :: p) sum.2 (num.mul (2 :: p) (num.mul (0 :: p) x.vout x.vol) x.vgr)) :=
  if_pos h

theorem mixVoice_of_inactive (num : Num) (p : Site) (sum : Sample × Sample) {x : Voice}
    (h : x.active = false) : mixVoice num p sum x = sum :=
  if_neg (Bool.not_eq_true _ ▸ h)

/-- Settles O44: the partial sums of the loop are the running sums, and the second `MIX` mixes the same
voices. -/
theorem mixSumsActiveVoices : Obligations.MixSumsActiveVoices := by
  intro s ready
  refine ⟨mixOutputs (1 :: s.site) s, exec_mix ready, mixOutputs_frame .., ?_,
    fun n => (mixSumBelow (1 :: s.site) s n).1, fun n => (mixSumBelow (1 :: s.site) s n).2, rfl, rfl,
    fun v => ⟨fun active => ?_, fun inactive => ?_⟩, ?_, ?_⟩
  · have mixedReady : (mixOutputs (1 :: s.site) s).Ready := ready
    rw [exec_mix mixedReady, site_mixOutputs, mixOutputs_mixOutputs]
  · have turn := (mixSumBelow_succ (1 :: s.site) s v).trans (mixVoice_of_active _ _ _ active)
    exact Prod.ext_iff.mp turn
  · have turn := (mixSumBelow_succ (1 :: s.site) s v).trans (mixVoice_of_inactive _ _ _ inactive)
    exact Prod.ext_iff.mp turn
  all_goals simp only [mixSumBelow_sixteen, mixOutputs_outl, mixOutputs_outr]

end Sys2Proof.Machine
end

section
/-! PROOFS. `FRAME` (45_mixer R216): the read-out of the voices it advances, and then `MIX`. -/

namespace Sys2Proof.Machine

theorem framed_iff (x : Voice) : framed x = true ↔ x.active = true ∧ x.mode = .blstep := by
  simp [framed]

/-- In a state that keeps the invariant, a block that executes commands has its read index in the ring. -/
theorem blRd_lt_nSlots {s : State} (ready : s.Ready) (inv : s.Inv) (v : Slot) :
    (s.voice v).blRd < nSlots s.cfg := by
  have wellFormed := malformed_eq_false ready inv
  obtain ⟨-, -, voices⟩ := inv
  obtain ⟨-, -, -, -, -, bounds⟩ := voices v
  exact (bounds wellFormed).1

theorem frameReadable_of_inv {s : State} (ready : s.Ready) (inv : s.Inv) : frameReadable s = true :=
  List.all_eq_true.mpr fun v _ => by simp [readable, blRd_lt_nSlots ready inv v]

/-- The state between the two parts of `FRAME`: its voices advanced, nothing mixed yet. -/
def State.advanced (s : State) : State := s.mapVoices (frameVoice s)

theorem exec_frame {s : State} (ready : s.Ready) (inv : s.Inv) :
    exec .frame s = .next (mixOutputs (1 :: s.site) s.advanced) :=
  (unlessKcfg_ready ready _).trans (if_pos (frameReadable_of_inv ready inv))

theorem exec_mix_advanced {s : State} (ready : s.Ready) :
    exec .mix s.advanced = .next (mixOutputs (1 :: s.site) s.advanced) := by
  have advancedReady : s.advanced.Ready := (kcfg_mapVoices s _).trans ready
  rw [exec_mix advancedReady, State.advanced, site_mapVoices]

/-- Settles O45: the state between the two parts of `FRAME` is the one `MIX` starts from. -/
theorem frameAdvancesThenMixes : Obligations.FrameAdvancesThenMixes := by
  intro s ready inv
  refine ⟨s.advanced, _, exec_frame ready inv, exec_mix_advanced ready, mapVoices_eq .., mixOutputs_frame ..,
    fun v => ?_⟩
  obtain ⟨-, -, voices⟩ := inv
  obtain ⟨-, -, -, -, wf, -⟩ := voices v
  rw [State.advanced, voice_mapVoices, ← framed_iff]
  refine ⟨fun advanced => ?_, fun other => if_neg other⟩
  have readOut : frameVoice s v (s.voice v) =
      blRead s.cfg.num (v.toNat :: 0 :: s.site) (nSlots s.cfg) (s.voice v) := if_pos advanced
  rw [readOut]
  refine ⟨rfl, ?_, fun j => ?_⟩
  · rw [blRead_frame]
  · rw [buf_blRead, read_write _ _ _ wf]

end Sys2Proof.Machine
end

section
/-! PROOFS. The gains (45_mixer R212, R213). -/

namespace Sys2Proof.Machine

/-- Settles O42: the value is checked, and the channel selects the register. -/
theorem vgainSetsGain : Obligations.VgainSetsGain := by
  intro s v ch x ready
  simp only [EndsInFault, exec, execVgain, unlessKcfg_ready ready]
  refine ⟨fun finite => ?_, fun infinite => by rw [if_pos infinite, raise]⟩
  rw [if_neg (by simp [finite])]
  split
  next left => exact ⟨_, rfl, onlyVoiceChanged_setVoice .., by simp⟩
  next right => exact ⟨_, rfl, onlyVoiceChanged_setVoice .., by simp⟩

/-- Settles O43: the value is checked, and the channel selects the register. -/
theorem mgainSetsGain : Obligations.MgainSetsGain := by
  intro s ch x ready
  simp only [EndsInFault, exec, execMgain, unlessKcfg_ready ready]
  refine ⟨fun finite => ?_, fun infinite => by rw [if_pos infinite, raise]⟩
  rw [if_neg (by simp [finite])]
  split
  next left => exact ⟨_, rfl, rfl⟩
  next right => exact ⟨_, rfl, rfl⟩

end Sys2Proof.Machine
end

section
/-! PROOFS. `NOP` and the three reads of tables and buffers (46_system R230, R232 to R234). -/

namespace Sys2Proof.Machine

open Sys2Proof.Laws

/-- Settles O18: only the row of `NOP` gives `NOP`, and its mask covers the whole word. -/
theorem nopChangesNothing : Obligations.NopChangesNothing := by
  refine ⟨fun s => rfl, fun w d => ?_⟩
  have selects : (Op.row .nop).selects w = true ↔ w = 0 := by
    have masked : (Op.row .nop).mask = BitVec.allOnes 32 := rfl
    rw [Row.selects, beq_iff_eq, masked, BitVec.and_allOnes]
    rfl
  rw [decode_eq_ok_iff, ← selects]
  constructor
  · rintro ⟨op, selected, isNop⟩
    obtain rfl : op = .nop := by rw [← op_operands op w d, isNop, Instr.op]
    exact selected
  · exact fun selected => ⟨.nop, selected, rfl⟩

/-- Settles O48: the index is checked against `BUFSZ`, and is the slot read. -/
theorem rdbufReturnsSlot : Obligations.RdbufReturnsSlot := by
  intro s v idx ready
  simp only [EndsInFault, exec, execRdbuf, unlessKcfg_ready ready]
  exact ⟨fun inside => if_neg (not_le.mpr inside), fun beyond => if_pos beyond⟩

/-- An `RDK` whose index is in bounds answers the tap that the kernel of its phase has there. -/
theorem exec_rdk {s : State} {ph : BitVec 6} {tap : BitVec 16} {taps : List Sample} {x : Sample}
    (ready : s.Ready) (row : kernel s.cfg ph = some taps) (stored : taps[tap.toNat]? = some x) :
    exec (.rdk ph tap) s = .next (s.setRdata x) := by
  obtain ⟨inside, -⟩ := List.getElem?_eq_some_iff.mp stored
  rw [kernel_length row] at inside
  simp [exec, execRdk, unlessKcfg_ready ready, inside, row, stored]

/-- Settles O49: the index is checked against `KS`, which under `Inv` is the length of every kernel. -/
theorem rdkReturnsTap : Obligations.RdkReturnsTap := by
  intro s ph tap ready
  refine ⟨fun inv inside => ?_, fun beyond => ?_⟩
  · obtain ⟨taps, row⟩ := kernel_of_wellFormed (malformed_eq_false ready inv) ph
    obtain ⟨bank, length⟩ := kernel_eq_some_iff.mp row
    have stored := List.getElem?_eq_getElem (length ▸ inside : tap.toNat < taps.length)
    exact ⟨taps, _, bank, stored, exec_rdk ready row stored⟩
  · simp only [EndsInFault, exec, execRdk, unlessKcfg_ready ready]
    exact if_pos beyond

/-- A ROM read finds nothing exactly from the size of its table on; table 3 has none (46_system R234). -/
theorem readRom_eq_none_iff (c : Cfg) (tbl : BitVec 2) (idx : BitVec 16) :
    readRom c tbl idx = none ↔ romSize c tbl ≤ idx.toNat := by
  have tables : ∀ t : BitVec 2, t = 0 ∨ t = 1 ∨ t = 2 ∨ t = 3 := by decide
  obtain rfl | rfl | rfl | rfl := tables tbl
  all_goals simp [readRom, romSize, nLin]

/-- `RDROM` answers the entry it finds, whether or not `KCFG` is set. -/
theorem exec_rdrom {s : State} {tbl : BitVec 2} {idx : BitVec 16} {d : Data}
    (entry : readRom s.cfg tbl idx = some d) : exec (.rdrom tbl idx) s = .next (s.setRdata d) := by
  simp only [exec, execRdrom, entry]

/-- `RDROM` faults on an index that is not below the size of its table. -/
theorem exec_rdrom_beyond {s : State} {tbl : BitVec 2} {idx : BitVec 16}
    (beyond : romSize s.cfg tbl ≤ idx.toNat) : EndsInFault .operand none (.rdrom tbl idx) s := by
  simp only [EndsInFault, exec, execRdrom, (readRom_eq_none_iff ..).mpr beyond, raise]

/-- Settles O50: each table holds its entries below its size, and every other index faults. -/
theorem rdromReturnsEntry : Obligations.RdromReturnsEntry := by
  intro s idx
  refine ⟨fun inside => exec_rdrom ?_, fun inside => exec_rdrom ?_, fun inside => exec_rdrom ?_,
    exec_rdrom_beyond (Nat.zero_le _), fun beyond => exec_rdrom_beyond beyond,
    fun beyond => exec_rdrom_beyond beyond, fun beyond => exec_rdrom_beyond beyond⟩
  all_goals simp [readRom, inside]

end Sys2Proof.Machine
end

section
/-! PROOFS. Faults and refusal (60_exceptions R243, R246, R248): every legal command is the refusal gate, then
the checks in their fixed order, then a completion that does not touch the error registers. -/

namespace Sys2Proof.Machine

/-! ## The error registers -/

/-- No fault was recorded between `s` and `t`. -/
def SameErrors (s t : State) : Prop := t.err = s.err ∧ t.errv = s.errv ∧ t.errw = s.errw

@[simp] theorem sameErrors_refl (s : State) : SameErrors s s := ⟨rfl, rfl, rfl⟩

@[simp] theorem sameErrors_setVoice (s : State) (v : Slot) (x : Voice) : SameErrors s (s.setVoice v x) :=
  ⟨rfl, rfl, rfl⟩

@[simp] theorem sameErrors_setRdata (s : State) (d : Data) : SameErrors s (s.setRdata d) := ⟨rfl, rfl, rfl⟩

@[simp] theorem sameErrors_startNote (s : State) (note : Voice) : SameErrors s (s.startNote note) :=
  ⟨rfl, rfl, rfl⟩

@[simp] theorem sameErrors_ticked (s : State) : SameErrors s s.ticked := by simp [SameErrors, State.ticked]

@[simp] theorem sameErrors_mixOutputs (p : Site) (s t : State) :
    SameErrors s (mixOutputs p t) ↔ SameErrors s t := Iff.rfl

@[simp] theorem sameErrors_advanced (s : State) : SameErrors s s.advanced := by
  simp [SameErrors, State.advanced]

/-- Setting bit `k` of a register leaves every other bit. -/
theorem getLsbD_or_bit {w k : Nat} (x : BitVec w) (n : Nat) (h : k < w) :
    (x ||| 1#w <<< k).getLsbD n = (x.getLsbD n || decide (n = k)) := by
  have bit : (1#w <<< k).getLsbD n = decide (n = k) :=
    (BitVec.getLsbD_twoPow k n).trans (by simp [h, eq_comm])
  rw [BitVec.getLsbD_or, bit]

theorem getLsbD_errSet (err : BitVec 5) (c : FaultCode) (n : Nat) :
    (errSet err c).getLsbD n = (err.getLsbD n || decide (n = c.num)) :=
  getLsbD_or_bit err n (by cases c <;> decide)

theorem getLsbD_errvSet (errv : BitVec 16) (v u : Slot) :
    (errvSet errv v).getLsbD u.toNat = (errv.getLsbD u.toNat || decide (v = u)) := by
  rw [errvSet, getLsbD_or_bit errv u.toNat v.isLt]
  simp [BitVec.toNat_eq, eq_comm]

/-- A fault leaves `ERR` other than 0, since it sets the bit of its code. -/
theorem errSet_ne_zero (err : BitVec 5) (c : FaultCode) : errSet err c ≠ 0 := by
  intro zero
  simpa [zero] using getLsbD_errSet err c c.num

/-- `ERR[4:1]` is 0 exactly when no bit above `KCFG` is set (60_exceptions R243). -/
theorem noCommandFault_iff (s : State) : s.noCommandFault = true ↔ s.err.toNat / 2 = 0 := by
  have field : ∀ err : BitVec 5, (err.extractLsb' 1 4 == 0) = true ↔ err.toNat / 2 = 0 := by decide
  exact field s.err

/-! ## The gate and the checks -/

/-- The refusal gate of 60_exceptions R246: three commands run under `KCFG` too. -/
def gated (i : Instr) (s : State) (run : Out) : Out := if runsUnderKcfg i then run else unlessKcfg s run

/-- A command that `KCFG` does not stop runs. -/
theorem gated_of_not_stopped {i : Instr} {s : State} (h : (s.kcfg && !runsUnderKcfg i) = false) (run : Out) :
    gated i s run = run := by
  unfold gated
  split
  next => rfl
  next stoppable => exact unlessKcfg_ready (by simpa [stoppable] using h) run

/-- The checks of 60_exceptions R248 after the gate, in their order, and then the completion. -/
def checked (i : Instr) (s : State) (run : Out) : Out :=
  if operandBad s i then raise .operand (voiceField i) i s
  else if modeBad s i then raise .mode (voiceField i) i s
  else if rangeBad s i then raise .range (voiceField i) i s
  else run

/-- `NOTEON` accepts its sustain operand exactly where its `OPERAND` cause does not hold (60_exceptions R241). -/
theorem operandBad_noteon (s : State) (vel : BitVec 7) (mode : BitVec 2) (psg held bqen : Bool) (atk : BitVec 8)
    (dec rel : BitVec 16) (sus : BitVec 24) :
    operandBad s (.noteon vel mode psg held bqen atk dec rel sus) = !susOk sus := by
  simp only [operandBad, susOk, Bool.not_and, ← decide_not, not_le]

/-- `RDREG` finds nothing exactly where its `OPERAND` cause holds (60_exceptions R241). -/
theorem operandBad_rdreg (s : State) (v : Slot) (r : BitVec 8) :
    operandBad s (.rdreg v r) = (s.readReg v r).isNone := by
  rw [← Option.not_isSome, isSome_readReg, operandBad]
  by_cases global : r.toNat < 0x40 <;> simp [global, bne, beq_eq_decide]

/-- `RDROM` finds nothing exactly where its `OPERAND` cause holds (60_exceptions R241). -/
theorem operandBad_rdrom (s : State) (tbl : BitVec 2) (idx : BitVec 16) :
    operandBad s (.rdrom tbl idx) = (readRom s.cfg tbl idx).isNone := by
  have noTable : tbl = 3 → romSize s.cfg tbl ≤ idx.toNat := by
    rintro rfl
    exact Nat.zero_le _
  rw [Bool.eq_iff_iff, Option.isNone_iff_eq_none, readRom_eq_none_iff]
  simpa [operandBad] using noTable

/-- Every legal command is the gate, the checks, and a completion that records no fault (60_exceptions R246,
R248). -/
theorem exec_eq_gated {i : Instr} (legal : i.wellFormed = true) (s : State) :
    ∃ run : Out, Ensures (SameErrors s) run ∧ exec i s = gated i s (checked i s run) := by
  simp only [gated, checked]
  cases i with
  | nop => exact ⟨.next s, by simp, rfl⟩
  | noteon vel mode psg held bqen atk dec rel sus =>
    obtain ⟨m, selected, -⟩ := exists_mode_of_ne_three mode (by simpa [Instr.wellFormed] using legal)
    refine ⟨.next (s.startNote (newNote s.cfg s.site vel m psg held bqen atk dec rel sus (s.voice s.alloc))),
      by simp, ?_⟩
    simp only [exec, execNoteon, selected, operandBad_noteon]
    cases susOk sus <;> rfl
  | release v =>
    exact ⟨if (s.voice v).active = true ∧ (s.voice v).phase ≠ .release then
        .next (s.setVoice v { s.voice v with phase := .release }) else .next s, by simp, rfl⟩
  | cut v =>
    exact ⟨if (s.voice v).active then .next (s.setVoice v (forceCut s.cfg.num (s.voice v))) else .next s,
      by simp, rfl⟩
  | setend v endTick mbz =>
    exact ⟨.next (s.setVoice v { s.voice v with endTick := endTick }), by simp,
      by simp [exec, execSetend, runsUnderKcfg, operandBad, modeBad, rangeBad, voiceField]⟩
  | tick => exact ⟨.next s.ticked, by simp, rfl⟩
  | bstep v off ph x =>
    cases row : kernel s.cfg ph with
    | none =>
      exact ⟨.fault .noSuchWord, by simp,
        by simp [exec, execBstep, runsUnderKcfg, operandBad, modeBad, rangeBad, voiceField, row]⟩
    | some taps =>
      exact ⟨.next (s.setVoice v (insertStep s.cfg.num s.site (nSlots s.cfg) off.toNat taps x (s.voice v))),
        by simp, by simp [exec, execBstep, runsUnderKcfg, operandBad, modeBad, rangeBad, voiceField, row]⟩
  | bread v =>
    exact ⟨if readable (nSlots s.cfg) (s.voice v) then .next (s.setVoice v
          (blRead s.cfg.num (v.toNat :: 0 :: s.site) (nSlots s.cfg) (s.voice v))) else .fault .noSuchWord,
      by simp, by simp [exec, execBread, runsUnderKcfg, operandBad, modeBad, rangeBad, voiceField]⟩
  | vdirect v x =>
    exact ⟨.next (s.setVoice v { s.voice v with vout := x }), by simp,
      by simp [exec, execVdirect, runsUnderKcfg, operandBad, modeBad, rangeBad, voiceField]⟩
  | bqcoef v stage k x =>
    have inRange : k.toNat ≤ 4 := by simpa [Instr.wellFormed] using legal
    obtain ⟨q, loaded⟩ := exists_setCoef ((s.voice v).bq stage) inRange x
    refine ⟨.next (s.setVoice v ((s.voice v).setBq stage q)), by simp, ?_⟩
    cases finite : s.cfg.num.finite x <;>
      simp [exec, execBqcoef, loaded, finite, runsUnderKcfg, operandBad, modeBad, rangeBad, voiceField]
  | lfocfg type depth range speed delay mbz =>
    obtain ⟨t, selected, -⟩ := exists_lfoType_of_ne_three type (by simpa [Instr.wellFormed] using legal)
    refine ⟨.next { s with
      lfoType := t, lfoDepth := depth, lfoRange := range, lfoSpeed := speed, lfoDelay := delay },
      by simp [SameErrors], ?_⟩
    simp [exec, execLfocfg, selected, runsUnderKcfg, operandBad, modeBad, rangeBad, voiceField]
  | vgain v ch x =>
    exact ⟨if ch = 0 then .next (s.setVoice v { s.voice v with vgl := x })
        else .next (s.setVoice v { s.voice v with vgr := x }), by simp,
      by simp [exec, execVgain, runsUnderKcfg, operandBad, modeBad, rangeBad, voiceField]⟩
  | mgain ch x =>
    exact ⟨if ch = 0 then .next { s with mgl := x } else .next { s with mgr := x }, by simp [SameErrors],
      by simp [exec, execMgain, runsUnderKcfg, operandBad, modeBad, rangeBad, voiceField]⟩
  | mix => exact ⟨.next (mixOutputs (1 :: s.site) s), by simp, rfl⟩
  | frame =>
    exact ⟨if frameReadable s then .next (mixOutputs (1 :: s.site) s.advanced) else .fault .noSuchWord,
      by simp, rfl⟩
  | rdreg v r =>
    refine ⟨.next (s.setRdata ((s.readReg v r).getD 0)), by simp, ?_⟩
    simp only [exec, execRdreg, operandBad_rdreg]
    cases s.readReg v r <;> rfl
  | rdbuf v idx =>
    exact ⟨.next (s.setRdata ((s.voice v).buf.read s.cfg.num.s0 idx.toNat)), by simp,
      by simp [exec, execRdbuf, runsUnderKcfg, operandBad, modeBad, rangeBad, voiceField]⟩
  | rdk ph tap =>
    cases row : (kernel s.cfg ph).bind (·[tap.toNat]?) with
    | none =>
      exact ⟨.fault .noSuchWord, by simp,
        by simp [exec, execRdk, runsUnderKcfg, operandBad, modeBad, rangeBad, voiceField, row]⟩
    | some x =>
      exact ⟨.next (s.setRdata x),
        by simp, by simp [exec, execRdk, runsUnderKcfg, operandBad, modeBad, rangeBad, voiceField, row]⟩
  | rdrom tbl idx =>
    refine ⟨.next (s.setRdata ((readRom s.cfg tbl idx).getD 0)), by simp, ?_⟩
    simp only [exec, execRdrom, operandBad_rdrom]
    cases readRom s.cfg tbl idx <;> rfl

/-- A legal command that `KCFG` does not let through has no effect at all (60_exceptions R246). -/
theorem exec_of_refused {i : Instr} {s : State} (refusing : s.kcfg = true) (legal : i.wellFormed = true)
    (stopped : runsUnderKcfg i = false) : exec i s = .next s := by
  obtain ⟨run, -, ran⟩ := exec_eq_gated legal s
  rw [ran, gated, stopped]
  exact unlessKcfg_kcfg refusing _

/-- A command ends in the fault it is to report; where that is none, its outcome records none. -/
theorem exec_reports (i : Instr) (s : State) : ∃ run : Out, Ensures (SameErrors s) run ∧
    exec i s = (expectedFault s i).elim run fun fault => raise fault.1 fault.2 i s := by
  cases legal : i.wellFormed with
  | false => exact ⟨.next s, by simp, by simp [expectedFault, legal, exec_of_not_wellFormed]⟩
  | true =>
    cases stopped : s.kcfg && !runsUnderKcfg i with
    | true =>
      obtain ⟨refusing, barred⟩ : s.kcfg = true ∧ runsUnderKcfg i = false := by simpa using stopped
      exact ⟨.next s, by simp, by simp [expectedFault, legal, stopped, exec_of_refused refusing legal barred]⟩
    | false =>
      obtain ⟨run, kept, ran⟩ := exec_eq_gated legal s
      refine ⟨run, kept, ran.trans ((gated_of_not_stopped stopped _).trans ?_)⟩
      simp only [checked, expectedFault, legal, stopped, Bool.true_eq_false, Bool.false_eq_true, if_false]
      split_ifs <;> rfl

/-- Settles O15: a command raises the fault it is to report, and where it is to report none its outcome
leaves the error registers alone. -/
theorem firstFailingCheckIsReported : Obligations.FirstFailingCheckIsReported := by
  intro i s
  obtain ⟨run, kept, ran⟩ := exec_reports i s
  refine ⟨fun c v reported => ?_, fun t silent h => ?_⟩
  · rw [EndsInFault, ran, reported]
    rfl
  · rw [ran, silent] at h
    exact kept t h

/-! ## What a step makes of the error registers -/

/-- A fault of a command was taken between `s` and `t`; `KCFG` is none (60_exceptions R246). -/
def TookFault (s t : State) : Prop :=
  ∃ (c : FaultCode) (v : Option Slot) (w : Word), c ≠ .kcfg ∧ t = s.takeFault c v w

/-- No command reports `KCFG`, which only a malformed configuration sets, at reset (60_exceptions R241). -/
theorem expectedFault_ne_kcfg (s : State) (i : Instr) (v : Option Slot) :
    expectedFault s i ≠ some (.kcfg, v) := by
  unfold expectedFault
  split_ifs <;> simp

/-- A command records nothing, or takes one fault. -/
theorem exec_errors (i : Instr) (s : State) :
    Ensures (fun t => SameErrors s t ∨ TookFault s t) (exec i s) := by
  obtain ⟨run, kept, ran⟩ := exec_reports i s
  rw [ran]
  cases reported : expectedFault s i with
  | none => exact fun t h => .inl (kept t h)
  | some fault =>
    obtain ⟨c, v⟩ := fault
    have code : c ≠ .kcfg := by
      rintro rfl
      exact expectedFault_ne_kcfg s i v reported
    exact (ensures_raise ..).mpr (.inr ⟨c, v, i.word, code, rfl⟩)

/-- A step records nothing, or takes one fault on the machine that has taken its command from the port. -/
theorem step_errors (s : State) :
    Ensures (fun t => SameErrors s t ∨ TookFault s.consume t) (step s) := by
  intro t h
  obtain ⟨-, ht⟩ | ⟨c, _, _, -, -, ht⟩ | ⟨_, _, i, -, -, ht⟩ := step_cases h
  · cases ht
    exact .inl (sameErrors_refl s)
  · cases ht
    exact .inr ⟨.illegal, none, c.w, by decide, rfl⟩
  · exact exec_errors i s.consume t ht.symm

/-- Settles O14: the fault entry sets the two bits and leaves the rest by its definition, and no step clears
`ERR`, since a further fault sets a bit of its own. -/
theorem faultEntryIsPrecise : Obligations.FaultEntryIsPrecise := by
  intro c v i s
  refine ⟨s.takeFault c v i.word, rfl, rfl, getLsbD_errSet s.err c, fun u => ?_, ?_, ?_, fun u h => ?_⟩
  · cases v with
    | none => simp
    | some v => simpa using getLsbD_errvSet s.errv v u
  · simp [noCommandFault_iff]
  · simpa [State.faultO] using errSet_ne_zero s.err c
  · obtain ⟨err, -, -⟩ | ⟨c', v', w, -, rfl⟩ := step_errors _ u h
    · simpa [State.faultO, err] using errSet_ne_zero s.err c
    · simpa [State.faultO] using errSet_ne_zero _ c'

/-- Under `KCFG` no command produces output: `MIX` and `FRAME` are refused (60_exceptions R246). -/
theorem exec_keeps_output {s : State} (refusing : s.kcfg = true) (i : Instr) :
    Ensures (fun t => t.outl = s.outl ∧ t.outr = s.outr) (exec i s) := by
  intro t h
  by_cases writer : i = .mix ∨ i = .frame
  · obtain rfl : t = s := by
      obtain rfl | rfl := writer <;>
      · rw [exec_of_refused refusing rfl rfl] at h
        cases h
        rfl
    exact ⟨rfl, rfl⟩
  · obtain ⟨notMix, notFrame⟩ := not_or.mp writer
    exact (exec_globalFrame i s t h).out notMix notFrame

/-- Under `KCFG` no step produces output: an illegal word only faults (60_exceptions R246). -/
theorem step_keeps_output {s : State} (refusing : s.kcfg = true) :
    Ensures (fun t => t.outl = s.outl ∧ t.outr = s.outr) (step s) := by
  intro t h
  obtain ⟨-, ht⟩ | ⟨_, _, _, -, -, ht⟩ | ⟨_, _, i, -, -, ht⟩ := step_cases h
  · cases ht
    exact ⟨rfl, rfl⟩
  · cases ht
    exact ⟨rfl, rfl⟩
  · exact exec_keeps_output (s := s.consume) refusing i t ht.symm

/-- Settles O16: the gate refuses every legal command but three, an illegal one faults before the gate, and a
step takes no `KCFG` fault and produces no output. -/
theorem refusedUnderKcfg : Obligations.RefusedUnderKcfg := by
  intro s refusing
  refine ⟨fun i => exec_of_refused refusing, fun i illegal => exec_of_not_wellFormed illegal s,
    fun t h => ⟨?_, step_keeps_output refusing t h⟩, fun c => ⟨rfl, rfl⟩⟩
  obtain ⟨err, -, -⟩ | ⟨c, v, w, code, rfl⟩ := step_errors s t h
  · rw [State.kcfg, err]
    exact refusing
  · rw [kcfg_takeFault _ c v w code]
    exact refusing

end Sys2Proof.Machine
end

section
/-! PROOFS. The encoder (30_encoding R80 to R82): the decoder reads back every field from its place, and a decoded
command holds all of `W`, and `D` where it uses it. -/

namespace Sys2Proof.Laws

/-! ## Fields of fields put together -/

theorem field_toWord {n : Nat} (x : BitVec n) (lo k : Nat) (h : lo + k ≤ 32) :
    field (toWord x) lo k = field x lo k := by
  apply BitVec.eq_of_getLsbD_eq
  intro i hi
  rw [getLsbD_field, getLsbD_field, getLsbD_toWord, decide_eq_true (by omega : lo + i < 32), Bool.true_and]

theorem field_toData {n : Nat} (x : BitVec n) (lo k : Nat) (h : lo + k ≤ 64) :
    field (toData x) lo k = field x lo k := by
  apply BitVec.eq_of_getLsbD_eq
  intro i hi
  rw [getLsbD_field, getLsbD_field, getLsbD_toData, decide_eq_true (by omega : lo + i < 64), Bool.true_and]

/-- A field within the low part of two put together is a field of that part. -/
theorem field_append_low {m n : Nat} (x : BitVec m) (y : BitVec n) (lo k : Nat) (h : lo + k ≤ n) :
    field (x ++ y) lo k = field y lo k :=
  BitVec.extractLsb'_append_eq_of_add_le h

/-- A field within the high part is a field of that part. -/
theorem field_append_high {m n : Nat} (x : BitVec m) (y : BitVec n) (lo k : Nat) (h : n ≤ lo) :
    field (x ++ y) lo k = field x (lo - n) k :=
  BitVec.extractLsb'_append_eq_of_le h

theorem field_self {n : Nat} (x : BitVec n) : field x 0 n = x := BitVec.extractLsb'_eq_self

theorem bitAt_toWord {n : Nat} (x : BitVec n) (i : Nat) (h : i < 32) :
    bitAt (toWord x) i = bitAt x i := by
  rw [bitAt, getLsbD_toWord, decide_eq_true h, Bool.true_and, bitAt]

theorem bitAt_append_low {m n : Nat} (x : BitVec m) (y : BitVec n) (i : Nat) (h : i < n) :
    bitAt (x ++ y) i = bitAt y i := by
  rw [bitAt, BitVec.getLsbD_append, if_pos h, bitAt]

theorem bitAt_append_high {m n : Nat} (x : BitVec m) (y : BitVec n) (i : Nat) (h : n ≤ i) :
    bitAt (x ++ y) i = bitAt x (i - n) := by
  rw [bitAt, BitVec.getLsbD_append, if_neg (not_lt.mpr h), bitAt]

theorem bitAt_bit1 (b : Bool) : bitAt (bit1 b) 0 = b := by
  cases b <;> rfl

/-! ## The words of a command -/

/-- The decoder reads from the words of a command the operands the command was built with (30_encoding R81,
R82). -/
theorem operands_encode (i : Instr) : i.op.operands i.word i.data = i := by
  cases i <;>
    simp (disch := decide) only [Instr.op, Op.operands, Instr.word, Instr.data, field_toWord, field_toData,
      field_append_low, field_append_high, field_self, bitAt_toWord, bitAt_append_low, bitAt_append_high,
      bitAt_bit1, Nat.reduceSub]

/-- The word of every command selects the row of its opcode (30_encoding R83). -/
theorem selects_word (i : Instr) : i.op.row.selects i.word = true := by
  cases i with
  | nop => exact WordSelectsRow.nop
  | noteon vel mode psg held bqen atk dec rel sus => exact WordSelectsRow.noteon ..
  | release v => exact WordSelectsRow.release ..
  | cut v => exact WordSelectsRow.cut ..
  | setend v endTick mbz => exact WordSelectsRow.setend ..
  | tick => exact WordSelectsRow.tick
  | bstep v off ph x => exact WordSelectsRow.bstep ..
  | bread v => exact WordSelectsRow.bread ..
  | vdirect v x => exact WordSelectsRow.vdirect ..
  | bqcoef v stage k x => exact WordSelectsRow.bqcoef ..
  | lfocfg type depth range speed delay mbz => exact WordSelectsRow.lfocfg ..
  | vgain v ch x => exact WordSelectsRow.vgain ..
  | mgain ch x => exact WordSelectsRow.mgain ..
  | mix => exact WordSelectsRow.mix
  | frame => exact WordSelectsRow.frame
  | rdreg v r => exact WordSelectsRow.rdreg ..
  | rdbuf v idx => exact WordSelectsRow.rdbuf ..
  | rdk ph tap => exact WordSelectsRow.rdk ..
  | rdrom tbl idx => exact WordSelectsRow.rdrom ..

/-- Settles O1: the word selects the row of the command, whose fields are then read back. -/
theorem encodeDecodesBack : Obligations.EncodeDecodesBack := fun i =>
  decode_eq_ok_iff.mpr ⟨i.op, selects_word i, operands_encode i⟩

/-! ## The fields of a decoded command -/

/-- The commands that use `D` (30_encoding R82). -/
def dataOps : List Op := [.noteon, .setend, .bstep, .vdirect, .bqcoef, .lfocfg, .vgain, .mgain]

/-- Neighbouring fields put together are one field. -/
theorem field_append_field {l : Nat} (x : BitVec l) {hi lo n : Nat} (m : Nat) (h : hi = lo + n) :
    field x hi m ++ field x lo n = field x lo (m + n) :=
  BitVec.extractLsb'_append_extractLsb'_eq_extractLsb' h

/-- The fields of `D` that a command uses are all of `D`. -/
theorem data_operands {op : Op} (h : op ∈ dataOps) (w : Word) (d : Data) : (op.operands w d).data = d := by
  have whole : toData (field d 0 64) = d := by simp [toData, field]
  cases op with
  | noteon | setend | lfocfg => simpa (disch := decide) only [Op.operands, Instr.data, field_append_field] using whole
  | bstep | vdirect | bqcoef | vgain | mgain => rfl
  | nop | release | cut | tick | bread | mix | frame | rdreg | rdbuf | rdk | rdrom => simp [dataOps] at h

/-- The other commands ignore `D`. -/
theorem operands_of_no_data {op : Op} (h : op ∉ dataOps) (w : Word) (d d' : Data) :
    op.operands w d = op.operands w d' := by
  cases op with
  | noteon | setend | lfocfg | bstep | vdirect | bqcoef | vgain | mgain => simp [dataOps] at h
  | _ => rfl

/-- Settles O2: the row that selects the word reads all of `D` or none of it. -/
theorem decodedCommandReencodes : Obligations.DecodedCommandReencodes := by
  intro c i decoded
  obtain ⟨op, selected, rfl⟩ := decode_eq_ok_iff.mp decoded
  rw [op_operands]
  refine ⟨word_of_decode decoded, fun uses => data_operands uses c.w c.d, fun ignores d => ?_⟩
  exact decode_eq_ok_iff.mpr ⟨op, selected, operands_of_no_data ignores c.w d c.d⟩

end Sys2Proof.Laws
end

section
/-! PROOFS. The invariant of the machine (10_state R34 to R40, 20_memory R66, 60_exceptions R246): what each
command makes of a voice slot keeps it, and the error registers and outputs keep the rest. -/

namespace Sys2Proof.Machine

/-! ## The two halves of the voice invariant -/

/-- Phase, timer and sustain level of a voice slot: `IDLE` exactly when inactive, both levels in `T0..0`
(10_state R34 to R36). -/
def LevelInv (x : Voice) : Prop :=
  (x.phase = .idle ↔ x.active = false) ∧ (t0 ≤ x.timer.toInt ∧ x.timer.toInt ≤ 0) ∧
  (t0 ≤ x.sus.toInt ∧ x.sus.toInt ≤ 0)

/-- `ENV_VOL` is the current volume (10_state R38). -/
def VolumeInv (c : Cfg) (x : Voice) : Prop :=
  x.vol = if x.active then calcVol c [] x.vel x.timer.toInt else c.num.s0

/-- The buffer of a voice slot is in canonical form, and under a well-formed configuration its read index and
its listed slots exist (10_state R40, 20_memory R66). -/
def BufferInv (c : Cfg) (x : Voice) : Prop :=
  x.buf.wf c.num.s0 = true ∧
  (malformed c = false → x.blRd < nSlots c ∧ x.buf.inBounds (nSlots c) = true)

theorem voiceInv_iff {c : Cfg} {x : Voice} : VoiceInv c x ↔ LevelInv x ∧ VolumeInv c x ∧ BufferInv c x := by
  simp only [VoiceInv, LevelInv, VolumeInv, BufferInv, and_assoc]

/-! ## The phase actions -/

/-- The timer an attack step leaves (40_envelope R121). -/
def attackTimer (atk : BitVec 8) (timer : Int) : Int := -((atk.toNat : Int) * -timer / 256)

theorem attackTimer_mem_range (atk : BitVec 8) {timer : Int} (high : timer ≤ 0) :
    timer ≤ attackTimer atk timer ∧ attackTimer atk timer ≤ 0 := by
  have coefficient : (atk.toNat : Int) ≤ 255 := by have := atk.isLt; omega
  have product : (atk.toNat : Int) * -timer ≤ 255 * -timer := Int.mul_le_mul_of_nonneg_right coefficient (by omega)
  have nonneg : 0 ≤ (atk.toNat : Int) * -timer := Int.mul_nonneg (by omega) (by omega)
  unfold attackTimer
  omega

theorem timer_attackStep {x : Voice} (low : t0 ≤ x.timer.toInt) (high : x.timer.toInt ≤ 0) :
    (attackStep x).timer.toInt = attackTimer x.atk x.timer.toInt := by
  obtain ⟨rises, stays⟩ := attackTimer_mem_range x.atk high
  exact toInt_ofInt_of_mem_range (low.trans rises) stays

theorem attackStep_keeps_levels {x : Voice} (inv : LevelInv x) (attacking : x.phase = .attack)
    (active : x.active = true) : LevelInv (attackStep x) := by
  obtain ⟨-, ⟨low, high⟩, level⟩ := inv
  obtain ⟨rises, stays⟩ := attackTimer_mem_range x.atk high
  refine ⟨?_, by rw [timer_attackStep low high]; exact ⟨low.trans rises, stays⟩, level⟩
  simp only [attackStep, active]
  split <;> simp [attacking]

theorem decayStep_keeps_levels {x : Voice} (inv : LevelInv x) (decaying : x.phase = .decay)
    (active : x.active = true) : LevelInv (decayStep x) := by
  obtain ⟨-, ⟨low, high⟩, level⟩ := inv
  unfold decayStep
  dsimp only
  split
  next => exact ⟨by simp [active], level, level⟩
  next above =>
    refine ⟨by simp [active, decaying], ?_, level⟩
    rw [toInt_ofInt_of_mem_range (by omega) (by omega)]
    omega

theorem releaseStep_keeps_levels (num : Num) {x : Voice} (inv : LevelInv x) (releasing : x.phase = .release)
    (active : x.active = true) : LevelInv (releaseStep num x) := by
  obtain ⟨-, ⟨low, high⟩, level⟩ := inv
  have bottom : t0 ≤ (BitVec.ofInt 32 t0).toInt ∧ (BitVec.ofInt 32 t0).toInt ≤ 0 := by decide
  unfold releaseStep
  dsimp only
  split
  next => exact ⟨by simp [forceCut], bottom, level⟩
  next sounding =>
    obtain ⟨-, above⟩ := not_or.mp sounding
    refine ⟨by simp [active, releasing], ?_, level⟩
    rw [toInt_ofInt_of_mem_range (by omega) (by omega)]
    omega

/-- A phase action keeps phase, timer and sustain level in order. -/
theorem phaseAction_keeps_levels (num : Num) {x : Voice} (inv : LevelInv x) (active : x.active = true) :
    LevelInv (phaseAction num x) := by
  unfold phaseAction
  split
  next attacking => exact attackStep_keeps_levels inv attacking active
  next decaying => exact decayStep_keeps_levels inv decaying active
  next => exact inv
  next releasing => exact releaseStep_keeps_levels num inv releasing active
  next => exact inv

/-- A voice that its phase action ends is silent: only the release step ends one, by a cut. -/
theorem vol_phaseAction_of_ended (num : Num) {x : Voice} (active : x.active = true) :
    (phaseAction num x).active = false → (phaseAction num x).vol = num.s0 := by
  unfold phaseAction
  split
  next _attacking => simp [attackStep, active]
  next _decaying =>
    unfold decayStep
    dsimp only
    split <;> simp [active]
  next _sustaining => simp [active]
  next _releasing =>
    unfold releaseStep
    dsimp only
    split
    next _cut => exact fun _ => rfl
    next _falls => simp [active]
  next _idle => simp [active]

/-- The end-tick test moves an active voice between two phases other than `IDLE`. -/
theorem endTickTest_keeps_levels (n : BitVec 32) {x : Voice} (inv : LevelInv x) (active : x.active = true) :
    LevelInv (endTickTest n x) ∧ (endTickTest n x).active = true := by
  obtain same | released := endTickTest_eq n x
  · rw [same]
    exact ⟨inv, active⟩
  · obtain ⟨-, timer, level⟩ := inv
    rw [released]
    exact ⟨⟨by simp [active], timer, level⟩, active⟩

/-- A tick keeps the envelope of a voice in order: a voice that still sounds takes the volume of its new timer,
one that the action ends has none (40_envelope R117). -/
theorem tickVoice_keeps_envelope (s : State) (v : Slot) {x : Voice} (levels : LevelInv x)
    (volume : VolumeInv s.cfg x) : LevelInv (tickVoice s v x) ∧ VolumeInv s.cfg (tickVoice s v x) := by
  cases active : x.active with
  | false =>
    rw [tickVoice_of_inactive active]
    exact ⟨levels, volume⟩
  | true =>
    obtain ⟨tested, stillActive⟩ := endTickTest_keeps_levels s.tickcnt levels active
    have acts : LevelInv (acted s x) := phaseAction_keeps_levels s.cfg.num tested stillActive
    cases sounding : (acted s x).active with
    | true =>
      rw [tickVoice_of_sounding active sounding, lfoStep_frame]
      refine ⟨acts, ?_⟩
      rw [VolumeInv, if_pos sounding, vel_acted, calcVol_site]
    | false =>
      rw [tickVoice_of_cut active sounding]
      refine ⟨acts, ?_⟩
      rw [VolumeInv, sounding]
      exact vol_phaseAction_of_ended s.cfg.num stillActive sounding

/-! ## The buffer -/

theorem insertStep_keeps_buffer {c : Cfg} (p : Site) (off : Nat) (taps : List Sample) (value : Sample) {x : Voice}
    (inv : BufferInv c x) : BufferInv c (insertStep c.num p (nSlots c) off taps value x) := by
  obtain ⟨wf, bounds⟩ := inv
  refine ⟨addTaps_wf _ _ _ _ _ _ _ _ _ wf, fun wellFormed => ?_⟩
  obtain ⟨index, cells⟩ := bounds wellFormed
  exact ⟨index, addTaps_inBounds _ _ _ _ _ _ _ _ _ (Nat.zero_lt_of_lt index) cells⟩

theorem blRead_keeps_buffer {c : Cfg} (p : Site) {x : Voice} (inv : BufferInv c x) :
    BufferInv c (blRead c.num p (nSlots c) x) := by
  obtain ⟨wf, bounds⟩ := inv
  rw [BufferInv, buf_blRead, blRd_blRead]
  refine ⟨write_wf _ _ wf, fun wellFormed => ?_⟩
  obtain ⟨index, cells⟩ := bounds wellFormed
  exact ⟨Nat.mod_lt _ (Nat.zero_lt_of_lt index), write_inBounds _ index cells⟩

theorem blRead_keeps_inv {c : Cfg} (p : Site) {x : Voice} (inv : VoiceInv c x) :
    VoiceInv c (blRead c.num p (nSlots c) x) := by
  obtain ⟨levels, volume, buffer⟩ := voiceInv_iff.mp inv
  refine voiceInv_iff.mpr ⟨?_, ?_, blRead_keeps_buffer p buffer⟩
  · rw [blRead_frame]
    exact levels
  · rw [blRead_frame]
    exact volume

/-! ## The commands -/

/-- A well-formed configuration has a buffer slot, since a kernel of at least 2 taps fits (41_kernel_bank
R145). -/
theorem nSlots_pos {c : Cfg} (wellFormed : malformed c = false) : 0 < nSlots c := by
  have ks : ksOk c = true := by
    simp only [malformed, Bool.not_eq_false', Bool.and_eq_true] at wellFormed
    obtain ⟨⟨⟨ks, -⟩, -⟩, -⟩ := wellFormed
    exact ks
  obtain ⟨n, hn, two, -, fits⟩ := (ksOk_iff c).mp ks
  rw [nSlots, lt_countBelow]
  have : (2 : Rat) ≤ c.ks := by rw [hn]; exact_mod_cast two
  push_cast
  linarith

theorem reset_voiceInv (c : Cfg) : VoiceInv c (Voice.reset c.num) :=
  have zero : t0 ≤ (0#32).toInt ∧ (0#32).toInt ≤ 0 := by decide
  voiceInv_iff.mpr ⟨⟨by simp [Voice.reset], zero, zero⟩, rfl, nil_wf,
    fun wellFormed => ⟨nSlots_pos wellFormed, rfl⟩⟩

theorem forceCut_keeps_inv {c : Cfg} {x : Voice} (inv : VoiceInv c x) : VoiceInv c (forceCut c.num x) := by
  obtain ⟨⟨-, timer, level⟩, -, buffer⟩ := voiceInv_iff.mp inv
  exact voiceInv_iff.mpr ⟨⟨by simp [forceCut], timer, level⟩, rfl, buffer⟩

/-- The note that a `NOTEON` with a legal sustain operand installs keeps the invariant, whatever was in the
slot. -/
theorem newNote_inv (c : Cfg) (p : Site) (vel : BitVec 7) (m : Mode) (psg held bqen : Bool) (atk : BitVec 8)
    (dec rel : BitVec 16) {sus : BitVec 24} (level : susOk sus = true) (x : Voice) :
    VoiceInv c (newNote c p vel m psg held bqen atk dec rel sus x) := by
  refine voiceInv_iff.mpr
    ⟨⟨by simp [newNote], ?_, ?_⟩, ?_, nil_wf, fun wellFormed => ⟨nSlots_pos wellFormed, rfl⟩⟩
  · rw [timer_newNote]
    split <;> decide
  · rw [sus_newNote]
    exact (susOk_iff sus).mp level
  · exact (vol_newNote c p x).trans (calcVol_site ..)

/-- Of the ways a command can update a voice, each keeps the invariant; the two that need a check made by the
command are left to it. -/
theorem VoiceUpdate.keeps_inv {s : State} {v : Slot} {i : Instr} {y : Voice} (h : VoiceUpdate s v i y)
    (noNoteon : i.op ≠ .noteon) (noRelease : i.op ≠ .release) (inv : VoiceInv s.cfg (s.voice v)) :
    VoiceInv s.cfg y := by
  obtain ⟨levels, volume, buffer⟩ := voiceInv_iff.mp inv
  cases h with
  | noteon => exact absurd rfl noNoteon
  | release => exact absurd rfl noRelease
  | cut => exact forceCut_keeps_inv inv
  | tick =>
    obtain ⟨levels, volume⟩ := tickVoice_keeps_envelope s v levels volume
    refine voiceInv_iff.mpr ⟨levels, volume, ?_⟩
    rw [tickVoice_frame]
    exact buffer
  | bstep => exact voiceInv_iff.mpr ⟨levels, volume, insertStep_keeps_buffer _ _ _ _ buffer⟩
  | bread | frame => exact blRead_keeps_inv _ inv
  | bqcoef =>
    rw [setBq_frame]
    exact inv
  | keep | setend | vdirect | vgainLeft | vgainRight => exact inv

/-- Every voice slot keeps its invariant. -/
def VoicesInv (c : Cfg) (t : State) : Prop := ∀ v : Slot, VoiceInv c (t.voice v)

theorem voicesInv_setVoice {c : Cfg} {s : State} (inv : VoicesInv c s) {u : Slot} {y : Voice} (h : VoiceInv c y) :
    VoicesInv c (s.setVoice u y) := by
  intro v
  rw [voice_setVoice]
  split
  next => exact h
  next => exact inv v

/-- A `NOTEON` that installs a note has checked its sustain operand (40_envelope R111). -/
theorem execNoteon_keeps_voices {s : State} (inv : VoicesInv s.cfg s) (vel : BitVec 7) (mode : BitVec 2)
    (psg held bqen : Bool) (atk : BitVec 8) (dec rel : BitVec 16) (sus : BitVec 24) :
    Ensures (VoicesInv s.cfg) (execNoteon vel mode psg held bqen atk dec rel sus s) := by
  unfold execNoteon
  cases Mode.ofField mode with
  | none => exact (ensures_raise ..).mpr inv
  | some m =>
    simp only [ensures_unlessKcfg, ensures_ite, ensures_next, ensures_raise]
    exact ⟨fun _ => inv, fun _ => ⟨fun level => voicesInv_setVoice inv (newNote_inv _ _ _ _ _ _ _ _ _ _ level _),
      fun _ => inv⟩⟩

/-- A `RELEASE` that writes the phase has found the voice active (40_envelope R113). -/
theorem execRelease_keeps_voices {s : State} (inv : VoicesInv s.cfg s) (u : Slot) :
    Ensures (VoicesInv s.cfg) (execRelease u s) := by
  simp only [execRelease, ensures_unlessKcfg, ensures_ite, ensures_next]
  refine ⟨fun _ => inv, fun _ => ⟨fun sounding => voicesInv_setVoice inv ?_, fun _ => inv⟩⟩
  obtain ⟨⟨-, levels⟩, volume, buffer⟩ := voiceInv_iff.mp (inv u)
  exact voiceInv_iff.mpr ⟨⟨by simp [sounding.1], levels⟩, volume, buffer⟩

/-- Every command keeps the invariant of every voice slot. -/
theorem exec_keeps_voices {s : State} (inv : VoicesInv s.cfg s) (i : Instr) :
    Ensures (VoicesInv s.cfg) (exec i s) := by
  by_cases noteon : i.op = .noteon
  · cases i <;> cases noteon
    exact execNoteon_keeps_voices inv _ _ _ _ _ _ _ _ _
  by_cases release : i.op = .release
  · cases i <;> cases release
    exact execRelease_keeps_voices inv _
  exact fun t h v => (exec_voicesUpdated i s t h v).keeps_inv noteon release (inv v)

theorem step_keeps_voices {s : State} (inv : VoicesInv s.cfg s) : Ensures (VoicesInv s.cfg) (step s) := by
  intro t h
  obtain ⟨-, ht⟩ | ⟨_, _, _, -, -, ht⟩ | ⟨_, _, i, -, -, ht⟩ := step_cases h
  · cases ht
    exact inv
  · cases ht
    exact inv
  · exact exec_keeps_voices (s := s.consume) inv i t ht.symm

/-! ## The step -/

/-- No step sets or clears `ERR[0]` (60_exceptions R246, 70_reset_and_hazards R271). -/
theorem step_keeps_kcfg (s : State) : Ensures (·.kcfg = s.kcfg) (step s) := by
  intro t h
  obtain ⟨err, -, -⟩ | ⟨c, v, w, code, rfl⟩ := step_errors s t h
  · rw [State.kcfg, err, State.kcfg]
  · exact kcfg_takeFault _ c v w code

/-- Settles O11: configuration and `ERR[0]` stay, a refusing machine produces no output, and every voice slot
keeps its invariant. -/
theorem stepKeepsInvariant : Obligations.StepKeepsInvariant := by
  intro s t inv h
  obtain ⟨kcfg, output, voices⟩ := inv
  have same := configurationNeverChanges s t h
  rw [State.Inv, same, step_keeps_kcfg s t h]
  refine ⟨kcfg, fun bad => ?_, step_keeps_voices voices t h⟩
  obtain ⟨left, right⟩ := step_keeps_output (kcfg.trans bad) t h
  rw [left, right]
  exact output bad

/-! ## Progress -/

/-- The machine goes on. -/
def GoesOn (o : Out) : Prop := ∃ t, o = .next t

@[simp] theorem goesOn_next (t : State) : GoesOn (.next t) := ⟨t, rfl⟩

@[simp] theorem goesOn_raise (c : FaultCode) (v : Option Slot) (i : Instr) (s : State) : GoesOn (raise c v i s) :=
  ⟨_, rfl⟩

@[simp] theorem goesOn_ite (c : Prop) [Decidable c] (a b : Out) :
    GoesOn (if c then a else b) ↔ (c → GoesOn a) ∧ (¬c → GoesOn b) := by
  split <;> simp_all

@[simp] theorem goesOn_unlessKcfg (s : State) (run : Out) :
    GoesOn (unlessKcfg s run) ↔ (s.Ready → GoesOn run) := by
  simp [unlessKcfg]

/-- Under the invariant no command stops the machine: where a command looks for a slot, a kernel or a tap, the
configuration is well-formed and holds it (20_memory R66, 60_exceptions R246). -/
theorem exec_goesOn {s : State} (inv : s.Inv) (i : Instr) : GoesOn (exec i s) := by
  cases i with
  | nop => simp [exec, execNop]
  | noteon vel mode =>
    simp only [exec, execNoteon]
    cases Mode.ofField mode <;> simp
  | release v => simp [exec, execRelease]
  | cut v => simp [exec, execCut]
  | setend v => simp [exec, execSetend]
  | tick => simp [exec, execTick]
  | bstep v off ph x =>
    simp only [exec, execBstep, goesOn_unlessKcfg]
    intro ready
    obtain ⟨taps, row⟩ := kernel_of_wellFormed (malformed_eq_false ready inv) ph
    simp [row]
  | bread v =>
    simp only [exec, execBread, goesOn_unlessKcfg]
    intro ready
    simp [readable, blRd_lt_nSlots ready inv v]
  | vdirect v x => simp [exec, execVdirect]
  | bqcoef v stage k x =>
    simp only [exec, execBqcoef]
    cases ((s.voice v).bq stage).setCoef k x <;> simp
  | lfocfg type =>
    simp only [exec, execLfocfg]
    cases LfoType.ofField type <;> simp
  | vgain v ch x => simp [exec, execVgain]
  | mgain ch x => simp [exec, execMgain]
  | mix => simp [exec, execMix]
  | frame =>
    simp only [exec, execFrame, goesOn_unlessKcfg]
    intro ready
    simp [frameReadable_of_inv ready inv]
  | rdreg v r =>
    simp only [exec, execRdreg]
    cases s.readReg v r <;> simp
  | rdbuf v idx => simp [exec, execRdbuf]
  | rdk ph tap =>
    simp only [exec, execRdk, goesOn_unlessKcfg, goesOn_ite]
    refine fun ready => ⟨fun _ => goesOn_raise .., fun inside => ?_⟩
    obtain ⟨taps, row⟩ := kernel_of_wellFormed (malformed_eq_false ready inv) ph
    have stored := List.getElem?_eq_getElem (l := taps) (i := tap.toNat) (by rw [kernel_length row]; omega)
    simp [row, stored]
  | rdrom tbl idx =>
    simp only [exec, execRdrom]
    cases readRom s.cfg tbl idx <;> simp

/-- Under the invariant a step goes on, and keeps it. -/
theorem step_goesOn {s : State} (inv : s.Inv) : ∃ t, step s = .next t ∧ t.Inv := by
  obtain ⟨t, h⟩ : GoesOn (step s) := by
    obtain ⟨-, h⟩ | ⟨_, _, _, -, -, h⟩ | ⟨_, _, i, -, -, h⟩ := step_cases (rfl : step s = _)
    · exact ⟨_, h⟩
    · exact ⟨_, h⟩
    · rw [h]
      exact exec_goesOn (s := s.consume) inv i
  exact ⟨t, h, stepKeepsInvariant s t inv h⟩

/-- Settles O12, by induction on the number of steps. -/
theorem invariantStatesRunForever : Obligations.InvariantStatesRunForever := by
  intro n
  induction n with
  | zero => exact fun s inv => ⟨s, rfl, inv⟩
  | succ n ih =>
    intro s inv
    obtain ⟨t, h, kept⟩ := step_goesOn inv
    have run : Host.Core.run core (n + 1) s = Host.Core.run core n t := by
      simp only [Host.Core.run, show core.step s = .next t from h]
    rw [run]
    exact ih t kept

@[simp] theorem kcfg_resetOf (c : Cfg) : (State.resetOf c).kcfg = malformed c := by
  cases bad : malformed c <;> simp [State.kcfg, State.resetOf, bad]

/-- Settles O10: every slot is at its reset value, and so are the outputs. -/
theorem resetMeetsInvariant : Obligations.ResetMeetsInvariant := by
  have holds (c : Cfg) : (State.resetOf c).Inv := by
    refine ⟨kcfg_resetOf c, fun _ => ⟨rfl, rfl⟩, fun v => ?_⟩
    rw [voice_resetOf]
    exact reset_voiceInv c
  exact ⟨holds, holds resetCfg⟩

end Sys2Proof.Machine
end

section
/-! PROOFS. The step and its registers of state (00_scope section 6, 10_state section 2, 41_kernel_bank R145):
what a step runs, that the error registers are sticky, and when `KCFG` is set. -/

namespace Sys2Proof.Machine

/-- Settles O5, by evaluating the decoder on each word. -/
theorem specWordsDecode : Obligations.SpecWordsDecode := by
  unfold Obligations.SpecWordsDecode
  decide

/-- Settles O6: the two branches of the step, by the port. -/
theorem stepRunsDecodedCommand : Obligations.StepRunsDecodedCommand := by
  refine ⟨fun s c rest i presented decoded => ?_, fun s idle => ?_⟩
  · have taken : s.consume = { s with cmds := rest, pos := s.pos + 1, fresh := s.fresh + 1 } := by
      rw [State.consume, presented, List.tail_cons]
    simp only [step, State.command?, presented, List.head?_cons, decoded, taken]
  · simp only [step, State.command?, idle, List.head?_nil]

/-- A command's fault sets a bit above `KCFG` (60_exceptions R241). -/
theorem errSet_above_kcfg : ∀ (err : BitVec 5) (c : FaultCode), c ≠ .kcfg → (errSet err c).toNat / 2 ≠ 0 := by
  intro err c
  revert err
  cases c <;> decide

/-- Settles O17: a fault only sets bits, and writes `ERRW` when it is the first of a command. -/
theorem errorRegistersAreSticky : Obligations.ErrorRegistersAreSticky := by
  intro s t h
  obtain ⟨err, errv, errw⟩ | ⟨c, v, w, code, rfl⟩ := step_errors s t h
  · rw [err, errv, errw]
    exact ⟨fun _ => id, fun _ => id, fun moved => absurd rfl moved⟩
  · refine ⟨fun n set => ?_, fun n set => ?_, fun moved => ?_⟩
    · exact (getLsbD_errSet s.err c n).trans (by rw [set, Bool.true_or])
    · cases v with
      | none => exact set
      | some v => exact (getLsbD_or_bit s.errv n v.isLt).trans (by rw [set, Bool.true_or])
    · have first : s.noCommandFault = true := by
        by_contra later
        exact moved (if_neg later)
      exact ⟨(noCommandFault_iff s).mp first, errSet_above_kcfg s.err c code⟩

/-! ## `KCFG` -/

/-- What breaks the check of `KS` (41_kernel_bank R145). -/
theorem ksOk_eq_false_iff (c : Cfg) : ksOk c = false ↔
    (∀ n : Int, c.ks ≠ n) ∨ c.ks < 2 ∨ (∃ n : Int, c.ks = 2 * n + 1) ∨ c.bufsz < c.ks := by
  rw [← Bool.not_eq_true, ksOk_iff]
  constructor
  · intro broken
    by_contra fine
    simp only [not_or, not_forall, not_not, not_lt, not_exists] at fine
    obtain ⟨⟨n, hn⟩, two, noOdd, fits⟩ := fine
    rw [hn] at two noOdd
    refine broken ⟨n, hn, by exact_mod_cast two, ?_, fits⟩
    by_contra odd
    exact noOdd (n / 2) (by exact_mod_cast (by omega : n = 2 * (n / 2) + 1))
  · rintro broken ⟨n, hn, two, even, fits⟩
    obtain fractional | small | ⟨m, odd⟩ | beyond := broken
    · exact fractional n hn
    · rw [hn] at small
      exact absurd two (not_le.mpr (by exact_mod_cast small))
    · rw [hn] at odd
      have : n = 2 * m + 1 := by exact_mod_cast odd
      omega
    · exact absurd fits (not_le.mpr beyond)

theorem bufszOk_eq_false_iff (c : Cfg) :
    bufszOk c = false ↔ (∀ k : Nat, c.bufsz ≠ 2 ^ k) ∨ 65536 < c.bufsz := by
  rw [← Bool.not_eq_true, bufszOk_iff, not_and_or, not_exists, not_le]

theorem kbankOk_eq_false_iff (c : Cfg) : kbankOk c = false ↔
    c.kbank.length ≠ 64 ∨ ∃ taps ∈ c.kbank, taps.length ≠ c.ks ∨ ∃ x ∈ taps, c.num.finite x = false := by
  simp only [kbankOk, np, Bool.and_eq_false_iff, beq_eq_false_iff_ne, List.all_eq_false, Bool.not_eq_true]

/-- The conditions on `FR`; under another `NUM` they are the uninterpreted tests of log 3. -/
def FrBad (c : Cfg) : Prop :=
  match c.num with
  | .binary64 => F64.finite c.fr = false ∨ F64.scaled c.fr ≤ 0 ∨ 2 ^ 1074 < F64.scaled c.fr
  | .other k => Config.numFinite k c.fr = false ∨ Config.numInUnit k c.fr = false

theorem frOk_eq_false_iff (c : Cfg) : frOk c = false ↔ FrBad c := by
  unfold FrBad
  cases num : c.num with
  | binary64 => 
    rw [← Bool.not_eq_true, frOk_iff c num, not_and_or, not_and_or, not_lt, not_le, Bool.not_eq_true, F64.unit]
    norm_cast
  | other k => simp only [frOk, num, Num.finite, Num.inUnit, Bool.and_eq_false_iff]

/-- Settles O9: the four checks, each negated, and a step that leaves `ERR[0]` alone. -/
theorem kcfgSetOnlyAtReset : Obligations.KcfgSetOnlyAtReset := by
  refine ⟨fun c => ?_, fun s t => step_keeps_kcfg s t⟩
  change (State.resetOf c).kcfg = true ↔ _ ∨ _ ∨ _ ∨ _ ∨ _ ∨ _ ∨ FrBad c ∨ _
  have checks : malformed c = true ↔ ksOk c = false ∨ bufszOk c = false ∨ frOk c = false ∨ kbankOk c = false := by
    simp only [malformed, Bool.not_eq_true', Bool.and_eq_false_iff, or_assoc]
  rw [kcfg_resetOf, checks, ksOk_eq_false_iff, bufszOk_eq_false_iff, frOk_eq_false_iff, kbankOk_eq_false_iff]
  simp only [or_assoc]

end Sys2Proof.Machine
end

section
/-! PROOFS. Which commands write `RDATA`, `ALLOC`, the note parameters and the voice they address (10_state
sections 2 to 4). -/

namespace Sys2Proof.Machine

/-! ## The reads -/

/-- The read `i` takes `s` to `t` by writing `RDATA` only, and run again stays there (20_memory R67). -/
def ReadsOnce (i : Instr) (s t : State) : Prop := t = { s with rdata := t.rdata } ∧ exec i t = .next t

/-- A read that answers whatever `RDATA` holds reads once. -/
theorem readsOnce_of_answer {i : Instr} {s t : State} {d : Data}
    (answers : ∀ e, exec i (s.setRdata e) = .next (s.setRdata d)) (h : exec i s = .next t) : ReadsOnce i s t := by
  cases (answers s.rdata).symm.trans h
  exact ⟨rfl, answers d⟩

/-- A refused read changes nothing, and is refused again. -/
theorem readsOnce_of_refused {i : Instr} {s t : State} (h : exec i s = .next t) (same : t = s) :
    ReadsOnce i s t := by
  subst same
  exact ⟨rfl, h⟩

/-- Settles O51: what a read finds does not depend on `RDATA`. -/
theorem readsAreIdempotent : Obligations.ReadsAreIdempotent := by
  intro i s t read fine h
  change ReadsOnce i s t
  cases i with
  | rdreg v r =>
    rw [operandBad_rdreg, Option.isNone_eq_false_iff] at fine
    obtain ⟨d, found⟩ := Option.isSome_iff_exists.mp fine
    refine readsOnce_of_answer (d := d) (fun e => ?_) h
    have found' : (s.setRdata e).readReg v r = some d := found
    simp only [exec, execRdreg, found']
    rfl
  | rdbuf v idx =>
    obtain ⟨-, same⟩ | ⟨ready, -⟩ := unlessKcfg_next h
    · exact readsOnce_of_refused h same
    · have inside : idx.toNat < nSlots s.cfg := by simpa [operandBad] using fine
      exact readsOnce_of_answer (d := (s.voice v).buf.read s.cfg.num.s0 idx.toNat)
        (fun e => (rdbufReturnsSlot (s.setRdata e) v idx ready).1 inside) h
  | rdk ph tap =>
    obtain ⟨-, same⟩ | ⟨ready, ran⟩ := unlessKcfg_next h
    · exact readsOnce_of_refused h same
    · have inside : ¬nTaps s.cfg ≤ tap.toNat := by simpa [operandBad] using fine
      rw [if_neg inside] at ran
      cases found : (kernel s.cfg ph).bind (·[tap.toNat]?) with
      | none => simp [found] at ran
      | some x =>
        refine readsOnce_of_answer (d := x) (fun e => ?_) h
        have ready' : (s.setRdata e).Ready := ready
        simp only [exec, execRdk, unlessKcfg_ready ready', setRdata_cfg, if_neg inside, found]
        rfl
  | rdrom tbl idx =>
    rw [operandBad_rdrom, Option.isNone_eq_false_iff] at fine
    obtain ⟨d, found⟩ := Option.isSome_iff_exists.mp fine
    exact readsOnce_of_answer (fun e => exec_rdrom (s := s.setRdata e) found) h
  | _ => simp [Instr.op] at read

/-! ## `RDATA` and the free-value counter -/

/-- The commands that write `RDATA` (10_state R45). -/
def rdataWriters : List Op := [.rdreg, .rdbuf, .rdk, .rdrom, .noteon]

/-- A command leaves the free-value counter, and `RDATA` unless it is one of its writers. -/
structure RdataFrame (i : Instr) (s t : State) : Prop where
  fresh : t.fresh = s.fresh
  rdata : i.op ∉ rdataWriters → t.rdata = s.rdata

/-- Every command keeps that frame. -/
theorem exec_rdataFrame (i : Instr) (s : State) : Ensures (RdataFrame i s) (exec i s) := by
  have refused : RdataFrame i s s := ⟨rfl, fun _ => rfl⟩
  have faulted c v w : RdataFrame i s (s.takeFault c v w) := ⟨rfl, fun _ => rfl⟩
  have voice v x : RdataFrame i s (s.setVoice v x) := ⟨rfl, fun _ => rfl⟩
  have read (writer : i.op ∈ rdataWriters) d : RdataFrame i s (s.setRdata d) :=
    ⟨rfl, fun other => absurd writer other⟩
  cases i with
  | nop => simp [exec, execNop, refused]
  | noteon vel mode =>
    simp only [exec, execNoteon]
    cases Mode.ofField mode with
    | none => simp [faulted]
    | some m =>
      simp only [ensures_unlessKcfg, ensures_ite, ensures_next, ensures_raise]
      exact ⟨fun _ => refused, fun _ => ⟨fun _ => ⟨rfl, fun other => by simp [rdataWriters, Instr.op] at other⟩,
        fun _ => faulted ..⟩⟩
  | release v => simp [exec, execRelease, refused, voice]
  | cut v => simp [exec, execCut, refused, voice]
  | setend v => simp [exec, execSetend, refused, faulted, voice]
  | tick =>
    simp only [exec, execTick, ensures_unlessKcfg, ensures_next]
    exact ⟨fun _ => refused, fun _ => by constructor <;> simp⟩
  | bstep v off ph x =>
    simp only [exec, execBstep]
    cases kernel s.cfg ph <;> simp [refused, faulted, voice]
  | bread v => simp [exec, execBread, refused, faulted, voice]
  | vdirect v x => simp [exec, execVdirect, refused, faulted, voice]
  | bqcoef v stage k x =>
    simp only [exec, execBqcoef]
    cases ((s.voice v).bq stage).setCoef k x <;> simp [refused, faulted, voice]
  | lfocfg type =>
    simp only [exec, execLfocfg]
    cases LfoType.ofField type with
    | none => simp [faulted]
    | some m =>
      simp only [ensures_unlessKcfg, ensures_ite, ensures_next, ensures_raise]
      exact ⟨fun _ => refused, fun _ => ⟨fun _ => faulted .., fun _ => by constructor <;> simp⟩⟩
  | vgain v ch x => simp [exec, execVgain, refused, faulted, voice]
  | mgain ch x =>
    simp only [exec, execMgain, ensures_unlessKcfg, ensures_ite, ensures_next, ensures_raise]
    exact ⟨fun _ => refused, fun _ => ⟨fun _ => faulted .., fun _ =>
      ⟨fun _ => by constructor <;> simp, fun _ => by constructor <;> simp⟩⟩⟩
  | mix =>
    simp only [exec, execMix, ensures_unlessKcfg, ensures_next]
    exact ⟨fun _ => refused, fun _ => by constructor <;> simp⟩
  | frame =>
    simp only [exec, execFrame, ensures_unlessKcfg, ensures_ite, ensures_next, ensures_fault]
    exact ⟨fun _ => refused, fun _ => ⟨fun _ => by constructor <;> simp, fun _ => trivial⟩⟩
  | rdreg v r =>
    simp only [exec, execRdreg]
    cases s.readReg v r <;> simp [faulted, read (by simp [rdataWriters, Instr.op])]
  | rdbuf v idx => simp [exec, execRdbuf, refused, faulted, read (by simp [rdataWriters, Instr.op])]
  | rdk ph tap =>
    simp only [exec, execRdk]
    cases (kernel s.cfg ph).bind (·[tap.toNat]?) <;> simp [refused, faulted, read (by simp [rdataWriters, Instr.op])]
  | rdrom tbl idx =>
    simp only [exec, execRdrom]
    cases readRom s.cfg tbl idx <;> simp [faulted, read (by simp [rdataWriters, Instr.op])]

/-- A command that is to report a fault only takes that fault (60_exceptions R243, R248). -/
theorem eq_takeFault_of_reported {i : Instr} {s t : State} {fault : FaultCode × Option Slot}
    (reported : expectedFault s i = some fault) (h : exec i s = .next t) :
    t = s.takeFault fault.1 fault.2 i.word :=
  raise_next (((firstFailingCheckIsReported i s).1 fault.1 fault.2 reported).symm.trans h)

/-- Settles O52: a command that reports nothing records nothing, so a changed `ERR` is a fault reported, and a
fault writes the error registers only. -/
theorem rdataWrittenByReadsAndNoteon : Obligations.RdataWrittenByReadsAndNoteon := by
  intro i s t h silent
  cases reported : expectedFault s i with
  | some fault =>
    rw [eq_takeFault_of_reported reported h]
    rfl
  | none =>
    obtain ⟨err, -, -⟩ := (firstFailingCheckIsReported i s).2 t reported h
    obtain other | moved | fails := silent
    · exact (exec_rdataFrame i s t h).rdata other
    · exact absurd err moved
    · exact absurd reported fails

/-! ## The allocation pointer -/

/-- A command that reports nothing is legal, and unless it is refused its operands are good. -/
theorem checks_of_silent {i : Instr} {s : State} (silent : expectedFault s i = none) :
    i.wellFormed = true ∧ (s.Ready → operandBad s i = false) := by
  unfold expectedFault at silent
  cases legal : i.wellFormed with
  | false => simp [legal] at silent
  | true =>
    refine ⟨rfl, fun ready => ?_⟩
    have ready : s.kcfg = false := ready
    cases bad : operandBad s i with
    | false => rfl
    | true => simp [legal, ready, bad] at silent

/-- A `NOTEON` that reports nothing and is not refused installs a note. -/
theorem exec_noteon_of_silent {i : Instr} {s : State} (noteon : i.op = .noteon) (ready : s.Ready)
    (silent : expectedFault s i = none) : ∃ note, exec i s = .next (s.startNote note) := by
  obtain ⟨legal, fine⟩ := checks_of_silent silent
  cases i with
  | noteon vel mode psg held bqen atk dec rel sus =>
    obtain ⟨m, selected, -⟩ := exists_mode_of_ne_three mode (by simpa [Instr.wellFormed] using legal)
    have level : susOk sus = true := by simpa [operandBad_noteon] using fine ready
    exact ⟨_, exec_noteon ready selected level⟩
  | _ => cases noteon

/-- Settles O54: a `NOTEON` that reports nothing and is not refused installs a note, and no other outcome writes
the two registers. -/
theorem allocationIsRoundRobin : Obligations.AllocationIsRoundRobin := by
  refine ⟨fun i s noteon ready silent => ?_, fun i s t h other => ?_⟩
  · obtain ⟨note, installs⟩ := exec_noteon_of_silent noteon ready silent
    exact ⟨_, installs, by simp [State.startNote, BitVec.toNat_add], rfl⟩
  · by_cases noteon : i.op = .noteon
    · cases reported : expectedFault s i with
      | some fault =>
        rw [eq_takeFault_of_reported reported h]
        exact ⟨rfl, rfl⟩
      | none =>
        have refusing : s.kcfg = true := by
          by_contra ready
          exact other ⟨noteon, eq_false_of_ne_true ready, reported⟩
        have stopped : runsUnderKcfg i = false := by
          cases i <;> cases noteon
          rfl
        cases (exec_of_refused refusing (checks_of_silent reported).1 stopped).symm.trans h
        exact ⟨rfl, rfl⟩
    · exact (exec_globalFrame i s t h).alloc noteon

/-! ## The voices -/

/-- Two contents of a voice slot have the same note parameters (10_state R31 to R33, R36). -/
def SameNote (x y : Voice) : Prop :=
  y.psg = x.psg ∧ y.held = x.held ∧ y.bqen = x.bqen ∧ y.mode = x.mode ∧ y.gen = x.gen ∧
  y.vel = x.vel ∧ y.atk = x.atk ∧ y.dec = x.dec ∧ y.sus = x.sus ∧ y.rel = x.rel

theorem SameNote.refl (x : Voice) : SameNote x x := ⟨rfl, rfl, rfl, rfl, rfl, rfl, rfl, rfl, rfl, rfl⟩

theorem sameNote_blRead (num : Num) (p : Site) (bufsz : Nat) (x : Voice) : SameNote x (blRead num p bufsz x) := by
  rw [blRead_frame]
  exact SameNote.refl x

/-- Of the ways a command can update a voice, only a new note changes the note parameters. -/
theorem VoiceUpdate.sameNote {s : State} {v : Slot} {i : Instr} {y : Voice} (h : VoiceUpdate s v i y)
    (other : ¬(i.op = .noteon ∧ v = s.alloc)) : SameNote (s.voice v) y := by
  cases h with
  | noteon allocated _ => exact absurd ⟨rfl, allocated⟩ other
  | tick =>
    rw [tickVoice_frame]
    exact SameNote.refl (s.voice v)
  | bread | frame => exact sameNote_blRead ..
  | bqcoef =>
    rw [setBq_frame]
    exact SameNote.refl (s.voice v)
  | _ => exact SameNote.refl (s.voice v)

/-- Settles O57, by the inversion of every command. -/
theorem noteParametersHaveOneWriter : Obligations.NoteParametersHaveOneWriter :=
  fun i s t v h other => (exec_voicesUpdated i s t h v).sameNote other

/-- A command updates only the voice its field names (60_exceptions R241). -/
theorem VoiceUpdate.eq_of_not_addressed {s : State} {u v : Slot} {i : Instr} {y : Voice}
    (h : VoiceUpdate s u i y) (addressed : voiceField i = some v) (other : u ≠ v) : y = s.voice u := by
  cases h with
  | keep => rfl
  | noteon | tick | frame => cases addressed
  | _ => exact absurd (Option.some.inj addressed) other

/-- No command with a voice field is a writer of a global register other than `RDATA` (10_state section 2). -/
theorem writes_no_global_of_addressed {i : Instr} {v : Slot} (addressed : voiceField i = some v) :
    i ≠ .tick ∧ i.op ≠ .noteon ∧ i.op ≠ .lfocfg ∧ (∀ ch x, i ≠ .mgain ch x) ∧ i ≠ .mix ∧ i ≠ .frame := by
  cases i <;> simp_all [voiceField, Instr.op]

/-- Settles O58: a voice slot is written by its address, and a global register by none of these commands. -/
theorem addressedVoiceOnly : Obligations.AddressedVoiceOnly := by
  intro i s t v addressed h
  refine ⟨?_, fun u other => (exec_voicesUpdated i s t h u).eq_of_not_addressed addressed other⟩
  obtain ⟨noTick, noNoteon, noLfocfg, noMgain, noMix, noFrame⟩ := writes_no_global_of_addressed addressed
  have cfg := exec_keeps_cfg i s t h
  obtain ⟨fresh, -⟩ := exec_rdataFrame i s t h
  obtain ⟨pos, cmds, tickcnt, alloc, lfo, mgl, mgr, out⟩ := exec_globalFrame i s t h
  obtain ⟨alloc, lastslot⟩ := alloc noNoteon
  obtain ⟨type, depth, range, speed, delay⟩ := lfo noLfocfg
  obtain ⟨outl, outr⟩ := out noMix noFrame
  rw [← cfg, ← fresh, ← pos, ← cmds, ← tickcnt noTick, ← alloc, ← lastslot, ← type, ← depth, ← range, ← speed,
    ← delay, ← mgl (noMgain 0), ← mgr (noMgain 1), ← outl, ← outr]

end Sys2Proof.Machine
end

section
/-! PROOFS. What `RDREG` returns (46_system R231): the packed registers as numbers, and every register by its
number. -/

namespace Sys2Proof.Machine

/-- Fields put together, as a number. -/
theorem toNat_append_eq {m n : Nat} (x : BitVec m) (y : BitVec n) :
    (x ++ y).toNat = x.toNat * 2 ^ n + y.toNat := by
  rw [BitVec.toNat_append, ← Nat.shiftLeft_add_eq_or_of_lt y.isLt, Nat.shiftLeft_eq]

/-- The value of a bit at place `k` (00_scope R8). -/
def bitValue (b : Bool) (k : Nat) : Nat := if b then 2 ^ k else 0

theorem bitValue_eq (b : Bool) (k : Nat) : bitValue b k = b.toNat * 2 ^ k := by
  cases b <;> simp [bitValue]

/-- `V_FLAGS` as a number (46_system R231). -/
theorem flags_eq (x : Voice) :
    x.flags.setWidth 64 = BitVec.ofNat 64 (bitValue x.active 0 + bitValue x.psg 1 + bitValue x.held 2 +
      bitValue x.bqen 3 + 16 * x.mode.num.toNat) := by
  have packed : ∀ (mode : BitVec 2) (bqen held psg active : Bool),
      ((mode ++ BitVec.ofBool bqen ++ BitVec.ofBool held ++ BitVec.ofBool psg ++
        BitVec.ofBool active).setWidth 6).setWidth 64 =
      BitVec.ofNat 64 (bitValue active 0 + bitValue psg 1 + bitValue held 2 + bitValue bqen 3 +
        16 * mode.toNat) := by decide
  exact packed ..

/-- `CFG_KS` as a number, for a `KS` that is a u16 (10_state R24). -/
theorem cfgKsWord_eq {c : Cfg} {ks : Nat} (hks : c.ks = ks) (fits : ks < 2 ^ 16) :
    cfgKsWord c =
      BitVec.ofNat 64 (ks + 64 * 2 ^ 16 + bitValue c.norm 24 + bitValue c.mp 25 + 2 * 2 ^ 28) := by
  have count : nTaps c = ks := by rw [nTaps, hks, countBelow_natCast]
  have field : ((nTaps c : Rat) = c.ks ∧ nTaps c < 2 ^ 16) := by rw [count]; exact ⟨hks.symm, fits⟩
  apply BitVec.eq_of_toNat_eq
  rw [cfgKsWord, if_pos field, count]
  have mp := c.mp.toNat_lt
  have norm := c.norm.toNat_lt
  simp only [BitVec.toNat_setWidth, toNat_append_eq, BitVec.toNat_ofNat, BitVec.toNat_ofBool, bitValue_eq, nstage, np]
  omega

theorem cfgBufszWord_eq {c : Cfg} {bufsz : Nat} (h : c.bufsz = bufsz) (fits : bufsz < 2 ^ 64) :
    cfgBufszWord c = BitVec.ofNat 64 bufsz := by
  have count : nSlots c = bufsz := by rw [nSlots, h, countBelow_natCast]
  rw [cfgBufszWord, count, if_pos ⟨h.symm, fits⟩]

/-- Bit `v` of `ACTIVE` is the active flag of voice `v` (10_state R28). -/
theorem getLsbD_activeMask (s : State) (u : Slot) : s.activeMask.getLsbD u.toNat = (s.voice u).active := by
  have inside : u.toNat < 16 := u.isLt
  rw [State.activeMask, BitVec.getLsbD_setWidth, decide_eq_true inside, Bool.true_and, BitVec.getLsbD_ofBoolListLE]
  simp [State.voice, inside]

/-- `RDREG` answers the register it finds. -/
theorem exec_rdreg {s : State} {v : Slot} {r : BitVec 8} {d : Data} (found : s.readReg v r = some d) :
    exec (.rdreg v r) s = .next { s with rdata := d } := by
  simp only [exec, execRdreg, found]
  rfl

/-- A global register has voice field 0 (46_system R231). -/
theorem exec_rdreg_global_voice {s : State} {v : Slot} {r : BitVec 8} (global : r.toNat < 0x40) (nonzero : v ≠ 0) :
    EndsInFault .operand none (.rdreg v r) s := by
  have missing : s.readReg v r = none := by rw [State.readReg, if_pos global, if_neg nonzero]
  simp only [EndsInFault, exec, execRdreg, missing, rdregVoice, if_pos global]
  rfl

/-- Settles O47: each listed number finds its register, the packed ones by the lemmas above, and `readReg` has
none for a number that does not exist or a global one with a voice. -/
theorem rdregReturnsRegister : Obligations.RdregReturnsRegister := by
  intro s v
  refine ⟨?_, fun ks hks fits => exec_rdreg ?_, fun bufsz h fits => exec_rdreg ?_, ?_, ?_,
    fun r global nonzero => exec_rdreg_global_voice global nonzero,
    fun r missing => (registerNumbersAreThese s v r).2 missing⟩
  · intro e he
    refine exec_rdreg ?_
    fin_cases he <;> rfl
  · exact congrArg some (cfgKsWord_eq hks fits)
  · exact congrArg some (cfgBufszWord_eq h fits)
  · refine ⟨s.activeMask.setWidth 64, exec_rdreg rfl, ?_, fun u => ?_⟩
    · rw [BitVec.toNat_setWidth]
      exact (Nat.mod_le ..).trans_lt s.activeMask.isLt
    · rw [← getLsbD_activeMask, BitVec.getLsbD_setWidth, decide_eq_true (u.isLt.trans (by decide)), Bool.true_and]
  · rw [List.forall_mem_cons]
    refine ⟨exec_rdreg (congrArg some (flags_eq _)), fun e he => exec_rdreg ?_⟩
    fin_cases he <;> rfl

end Sys2Proof.Machine
end

section
/-! PROOFS. The phase ATTACK (40_envelope R121): the recurrence on the timer, and how many ticks it takes to
reach 0. -/

namespace Sys2Proof.Machine

/-- Settles O25: the attack step moves the timer by its recurrence and hands over at 0. -/
theorem attackMovesTimer : Obligations.AttackMovesTimer := by
  intro s v ready inv active attacking running
  refine ⟨s.ticked, exec_tick ready, ?_⟩
  obtain ⟨hactive, hphase, htimer, -⟩ := tickVoice_envelope s v active
  have hacted : acted s (s.voice v) = attackStep (s.voice v) := by
    simp only [acted, endTickTest_of_not_passed running, phaseAction, attacking]
  obtain ⟨-, -, voices⟩ := inv
  obtain ⟨-, ⟨low, high⟩, -⟩ := voices v
  have moves := timer_attackStep low high
  rw [voice_ticked]
  dsimp only
  rw [hactive, hphase, htimer, hacted, moves]
  refine ⟨active, rfl, ?_⟩
  rw [← attacking]
  rfl

/-- How far below 0 an attack step leaves a timer that is `u` below 0 (40_envelope R121). -/
def attackDepth (atk u : Nat) : Nat := atk * u / 256

theorem timer_attackStep_depth {x : Voice} {u : Nat} (bound : u ≤ 92544) (h : x.timer.toInt = -(u : Int)) :
    (attackStep x).timer.toInt = -(attackDepth x.atk.toNat u : Int) := by
  rw [timer_attackStep (by rw [h, t0]; omega) (by omega), h, attackTimer, attackDepth, neg_neg]
  push_cast
  rfl

theorem attackDepth_le {atk u : Nat} (h : atk ≤ 255) : attackDepth atk u ≤ u := by
  have : atk * u ≤ 255 * u := Nat.mul_le_mul_right u h
  unfold attackDepth
  omega

/-- The timer after `n` attack steps, as a depth. -/
theorem timer_iterate_attackStep (n : Nat) {x : Voice} {u : Nat} (bound : u ≤ 92544)
    (h : x.timer.toInt = -(u : Int)) :
    (attackStep^[n] x).timer.toInt = -(((attackDepth x.atk.toNat)^[n] u : Nat) : Int) := by
  induction n generalizing x u with
  | zero => exact h
  | succ n ih =>
    have shallower := attackDepth_le (u := u) (Nat.le_of_lt_succ x.atk.isLt)
    exact ih (x := attackStep x) (shallower.trans bound) (timer_attackStep_depth bound h)

theorem attackDepth_mono {atk atk' u u' : Nat} (h : atk ≤ atk') (hu : u ≤ u') :
    attackDepth atk u ≤ attackDepth atk' u' :=
  Nat.div_le_div_right (Nat.mul_le_mul h hu)

/-- A smaller coefficient and a timer nearer to 0 stay nearer to 0. -/
theorem iterate_attackDepth_mono {atk atk' : Nat} (h : atk ≤ atk') (n : Nat) {u u' : Nat} (hu : u ≤ u') :
    (attackDepth atk)^[n] u ≤ (attackDepth atk')^[n] u' := by
  induction n generalizing u u' with
  | zero => exact hu
  | succ n ih => exact ih (attackDepth_mono h hu)

/-- The slowest attack, from `T0`: 1653 steps, and no fewer. -/
theorem slowest_attack : (attackDepth 255)^[1652] 92544 ≠ 0 ∧ (attackDepth 255)^[1653] 92544 = 0 := by
  decide +kernel

/-- Settles O26: every attack is at most as slow as the slowest one. -/
theorem attackReachesZero : Obligations.AttackReachesZero := by
  refine ⟨fun x low high => ?_, fun x slow start => ?_⟩
  · have coefficient : x.atk.toNat ≤ 255 := Nat.le_of_lt_succ x.atk.isLt
    obtain ⟨u, hu⟩ : ∃ u : Nat, x.timer.toInt = -(u : Int) := ⟨x.timer.toInt.natAbs, by omega⟩
    have bound : u ≤ 92544 := by omega
    have product : x.atk.toNat * u ≤ 255 * u := Nat.mul_le_mul_right u coefficient
    have depth : (attackStep x).timer.toInt = -((x.atk.toNat * u / 256 : Nat) : Int) :=
      timer_attackStep_depth bound hu
    refine ⟨by omega, by omega, fun _ => by omega, fun zero => ?_, 1653, le_rfl, ?_⟩
    · rw [depth, zero]
      simp
    · have faster := iterate_attackDepth_mono coefficient 1653 bound
      rw [slowest_attack.2] at faster
      rw [timer_iterate_attackStep 1653 bound hu, Nat.le_zero.mp faster]
      rfl
  · have steps n := timer_iterate_attackStep n (le_refl 92544) start
    have atk : x.atk.toNat = 255 := by rw [slow]; rfl
    rw [steps, steps, atk, slowest_attack.2]
    exact ⟨by have := slowest_attack.1; omega, rfl⟩

end Sys2Proof.Machine
end

section
/-! PROOFS. The rounding of binary64 (00_scope R10, log 3): what `F64.round` answers, that no finite value is
nearer, and where it overflows. -/

namespace Sys2Proof.Machine

/-! ## Patterns -/

theorem toNat_ofSign (neg : Bool) {low : Nat} (h : low < 2 ^ 63) :
    (F64.ofSign neg low).toNat = if neg then 2 ^ 63 + low else low := by
  rw [F64.ofSign, BitVec.toNat_ofNat]
  exact Nat.mod_eq_of_lt (by split <;> omega)

theorem sign_ofSign (neg : Bool) {low : Nat} (h : low < 2 ^ 63) : F64.sign (F64.ofSign neg low) = neg := by
  rw [F64.sign, BitVec.msb_eq_decide, toNat_ofSign neg h]
  cases neg with
  | false => simpa using h
  | true => simp

theorem expo_ofSign (neg : Bool) {low : Nat} (h : low < 2 ^ 63) : F64.expo (F64.ofSign neg low) = low / 2 ^ 52 := by
  rw [F64.expo, BitVec.extractLsb'_toNat, toNat_ofSign neg h, Nat.shiftRight_eq_div_pow]
  split <;> omega

theorem frac_ofSign (neg : Bool) {low : Nat} (h : low < 2 ^ 63) : F64.frac (F64.ofSign neg low) = low % 2 ^ 52 := by
  rw [F64.frac, BitVec.extractLsb'_toNat, toNat_ofSign neg h, Nat.shiftRight_eq_div_pow]
  split <;> omega

theorem lastBit_ofSign (neg : Bool) {low : Nat} (h : low < 2 ^ 63) (even : low % 2 = 0) :
    (F64.ofSign neg low).getLsbD 0 = false := by
  rw [BitVec.getLsbD, toNat_ofSign neg h, Nat.testBit_zero, decide_eq_false]
  split <;> omega

theorem sign_inf (neg : Bool) : F64.sign (F64.inf neg) = neg := sign_ofSign neg (by decide)

/-! ## The magnitudes of binary64 -/

/-- A magnitude with no more significant bits than binary64 keeps: from `2^(52+k)` on it is a multiple of
`2^k`. -/
def Representable (m : Nat) : Prop := ∀ k : Nat, m < 2 ^ (52 + k) ∨ 2 ^ k ∣ m

theorem representable_zero : Representable 0 := fun _ => .inr (dvd_zero _)

theorem frac_lt (x : Sample) : F64.frac x < 2 ^ 52 := (x.extractLsb' 0 52).isLt

theorem representable_magnitude (x : Sample) : Representable (F64.magnitude x) := by
  intro k
  have frac := frac_lt x
  unfold F64.magnitude
  split
  next => exact .inl (frac.trans_le (Nat.pow_le_pow_right (by decide) (by omega)))
  next normal =>
    rcases Nat.lt_or_ge (F64.expo x - 1) k with coarse | fine
    · left
      calc (F64.frac x + 2 ^ 52) * 2 ^ (F64.expo x - 1)
          < 2 ^ 53 * 2 ^ (F64.expo x - 1) := Nat.mul_lt_mul_of_pos_right (by omega) (Nat.two_pow_pos _)
        _ = 2 ^ (53 + (F64.expo x - 1)) := (Nat.pow_add ..).symm
        _ ≤ 2 ^ (52 + k) := Nat.pow_le_pow_right (by decide) (by omega)
    · exact .inr (Dvd.dvd.mul_left (Nat.pow_dvd_pow 2 fine) _)

/-- A mantissa at a shift, put together as a pattern: below the pattern of infinity it is the finite value
`man * 2 ^ shift`. -/
theorem magnitude_ofSign (neg : Bool) {shift man : Nat} (normal : shift = 0 ∨ 2 ^ 52 ≤ man)
    (bound : man ≤ 2 ^ 53) (fits : shift * 2 ^ 52 + man < 2047 * 2 ^ 52) :
    F64.magnitude (F64.ofSign neg (shift * 2 ^ 52 + man)) = man * 2 ^ shift := by
  have inRange : shift * 2 ^ 52 + man < 2 ^ 63 := by omega
  rw [F64.magnitude, expo_ofSign neg inRange, frac_ofSign neg inRange]
  rcases Nat.lt_or_ge man (2 ^ 52) with subnormal | large
  · have zero : shift = 0 := normal.resolve_right (by omega)
    rw [if_pos (by omega), zero]
    omega
  · rcases Nat.lt_or_ge man (2 ^ 53) with inside | carried
    · rw [if_neg (by omega), show (shift * 2 ^ 52 + man) / 2 ^ 52 - 1 = shift by omega,
        show (shift * 2 ^ 52 + man) % 2 ^ 52 + 2 ^ 52 = man by omega]
    · have top : man = 2 ^ 53 := by omega
      rw [if_neg (by omega), show (shift * 2 ^ 52 + man) / 2 ^ 52 - 1 = shift + 1 by omega,
        show (shift * 2 ^ 52 + man) % 2 ^ 52 + 2 ^ 52 = 2 ^ 52 by omega, top, Nat.pow_succ]
      omega

/-! ## The parts of a rounding -/

/-- The place of the last bit kept of `num / den`. -/
def roundShift (num den : Nat) : Nat := Nat.log2 (num / den) - 52

/-- A unit in that place. -/
def roundUlp (num den : Nat) : Nat := 2 ^ roundShift num den * den

/-- The mantissa rounded down. -/
def roundDown (num den : Nat) : Nat := num / roundUlp num den

/-- The rounding goes up: past the half, and at the half from an odd mantissa. -/
abbrev RoundsUp (num den : Nat) : Prop :=
  roundUlp num den < 2 * (num % roundUlp num den) ∨
  (2 * (num % roundUlp num den) = roundUlp num den ∧ roundDown num den % 2 = 1)

/-- The mantissa rounded to nearest, ties to even. -/
def roundMan (num den : Nat) : Nat :=
  if RoundsUp num den then roundDown num den + 1 else roundDown num den

/-- The rounded magnitude. -/
def rounded (num den : Nat) : Nat := roundMan num den * 2 ^ roundShift num den

/-- How far the magnitude `m` is from `num / den`, in parts of `den`. -/
def roundError (num den m : Nat) : Nat := (((m * den : Nat) : Int) - num).natAbs

theorem roundError_zero (num den : Nat) : roundError num den 0 = num := by
  simp [roundError]

/-- The pattern of the rounded magnitude, unless that overflows. -/
def roundLow (num den : Nat) : Nat := roundShift num den * 2 ^ 52 + roundMan num den

theorem round_eq (neg : Bool) (num den : Nat) : F64.round neg num den =
    if 2047 * 2 ^ 52 ≤ roundLow num den then F64.inf neg else F64.ofSign neg (roundLow num den) := rfl

theorem sign_round (neg : Bool) (num den : Nat) : F64.sign (F64.round neg num den) = neg := by
  rw [round_eq]
  split
  next => exact sign_inf neg
  next fits => exact sign_ofSign neg (by omega)

theorem roundMan_cases (num den : Nat) :
    (RoundsUp num den ∧ roundMan num den = roundDown num den + 1) ∨
    (¬RoundsUp num den ∧ roundMan num den = roundDown num den) := by
  unfold roundMan
  split
  next up => exact .inl ⟨up, rfl⟩
  next down => exact .inr ⟨down, rfl⟩

/-- The number that is rounded lies `num % ulp` above the mantissa rounded down. -/
theorem eq_roundDown_add (num den : Nat) :
    num = roundDown num den * roundUlp num den + num % roundUlp num den :=
  (Nat.div_add_mod' num _).symm

theorem overflow_mul (den : Nat) : F64.overflow * den = (2 ^ 54 - 1) * (2 ^ 2044 * den) := by
  simp only [F64.overflow, Nat.mul_assoc]

section
variable {num den : Nat} (hden : 0 < den)

include hden

theorem roundUlp_pos : 0 < roundUlp num den := Nat.mul_pos (Nat.two_pow_pos _) hden

/-- The mantissa rounded down has at most 53 bits. -/
theorem roundDown_lt : roundDown num den < 2 ^ 53 := by
  rw [roundDown, Nat.div_lt_iff_lt_mul (roundUlp_pos hden), roundUlp, ← Nat.mul_assoc,
    ← Nat.div_lt_iff_lt_mul hden, ← Nat.pow_add]
  exact Nat.lt_log2_self.trans_le (Nat.pow_le_pow_right (by decide) (by unfold roundShift; omega))

/-- Unless no bit is dropped it has all 53. -/
theorem roundDown_normal : roundShift num den = 0 ∨ 2 ^ 52 ≤ roundDown num den := by
  rcases Nat.eq_zero_or_pos (roundShift num den) with none | some
  · exact .inl none
  · right
    rw [roundDown, Nat.le_div_iff_mul_le (roundUlp_pos hden), roundUlp, ← Nat.mul_assoc,
      ← Nat.le_div_iff_mul_le hden, ← Nat.pow_add]
    unfold roundShift at some ⊢
    have large : num / den ≠ 0 := by
      intro zero
      simp [zero] at some
    rw [show 52 + ((num / den).log2 - 52) = (num / den).log2 by omega]
    exact Nat.log2_self_le large

theorem roundMan_le : roundMan num den ≤ 2 ^ 53 := by
  have := roundDown_lt (num := num) hden
  rcases roundMan_cases num den with ⟨-, man⟩ | ⟨-, man⟩ <;> omega

theorem roundMan_normal : roundShift num den = 0 ∨ 2 ^ 52 ≤ roundMan num den := by
  refine (roundDown_normal hden).imp_right fun normal => ?_
  rcases roundMan_cases num den with ⟨-, man⟩ | ⟨-, man⟩ <;> omega

/-- A representable magnitude does not lie strictly between two neighbouring mantissas. -/
theorem representable_outside {m : Nat} (h : Representable m) :
    m * den ≤ roundDown num den * roundUlp num den ∨ (roundDown num den + 1) * roundUlp num den ≤ m * den := by
  have multiple : 2 ^ roundShift num den ∣ m ∨ m ≤ roundDown num den * 2 ^ roundShift num den := by
    rcases h (roundShift num den) with small | multiple
    · rcases roundDown_normal (num := num) hden with fine | normal
      · simp [fine]
      · right
        rw [Nat.pow_add] at small
        exact small.le.trans (Nat.mul_le_mul_right _ normal)
    · exact .inl multiple
  unfold roundUlp
  rcases multiple with ⟨j, rfl⟩ | below
  · rw [Nat.mul_comm _ j, Nat.mul_assoc]
    rcases Nat.lt_or_ge (roundDown num den) j with above | below
    · exact .inr (Nat.mul_le_mul_right _ above)
    · exact .inl (Nat.mul_le_mul_right _ below)
  · left
    rw [← Nat.mul_assoc]
    exact Nat.mul_le_mul_right _ below

/-- No representable magnitude is nearer to `num / den` than the rounded one, and where another is as near the
rounded mantissa is even. -/
theorem rounded_nearest {m : Nat} (h : Representable m) :
    roundError num den (rounded num den) ≤ roundError num den m ∧
      (roundError num den (rounded num den) = roundError num den m → rounded num den ≠ m →
        roundMan num den % 2 = 0) := by
  have outside := representable_outside (num := num) hden h
  have number := eq_roundDown_add num den
  have rest := Nat.mod_lt num (roundUlp_pos (num := num) hden)
  have other : rounded num den ≠ m → rounded num den * den ≠ m * den :=
    fun other same => other (Nat.eq_of_mul_eq_mul_right hden same)
  have value : rounded num den * den = roundMan num den * roundUlp num den := Nat.mul_assoc ..
  unfold roundError
  rw [value] at other ⊢
  rw [Nat.add_one_mul] at outside
  rcases roundMan_cases num den with ⟨up, man⟩ | ⟨stays, man⟩
  · rw [man, Nat.add_one_mul _ (roundUlp num den)] at other ⊢
    unfold RoundsUp at up
    omega
  · rw [man] at other ⊢
    unfold RoundsUp at stays
    omega

/-- The unit in the last place against the overflow threshold, about the shift 2045 of the largest values. -/
theorem roundUlp_near_top : ∃ half : Nat, 0 < half ∧
    F64.overflow * den = (2 ^ 54 - 1) * half ∧
    (roundShift num den ≤ 2044 → roundUlp num den ≤ half) ∧
    (roundShift num den = 2045 → roundUlp num den = 2 * half) ∧
    (2046 ≤ roundShift num den → 2 ^ 2 * half ≤ roundUlp num den) := by
  refine ⟨2 ^ 2044 * den, Nat.mul_pos (pow_pos two_pos 2044) hden, overflow_mul den,
    fun h => ?_, fun h => ?_, fun h => ?_⟩
  · exact Nat.mul_le_mul_right _ (pow_le_pow_right₀ (by decide) h)
  · rw [roundUlp, h, ← Nat.mul_assoc, ← Nat.pow_succ']
  · rw [← Nat.mul_assoc, ← pow_add]
    exact Nat.mul_le_mul_right _ (pow_le_pow_right₀ (by decide) (by omega))

/-- The rounded pattern reaches that of infinity exactly from the overflow threshold on. -/
theorem overflow_le_iff : F64.overflow * den ≤ num ↔ 2047 * 2 ^ 52 ≤ roundLow num den := by
  obtain ⟨half, positive, threshold, below, top, beyond⟩ := roundUlp_near_top (num := num) hden
  have number := eq_roundDown_add num den
  have rest := Nat.mod_lt num (roundUlp_pos (num := num) hden)
  have bits := roundDown_lt (num := num) hden
  have normal := roundDown_normal (num := num) hden
  have man := roundMan_cases num den
  unfold RoundsUp at man
  unfold roundLow
  rw [threshold]
  rcases Nat.lt_trichotomy (roundShift num den) 2045 with small | edge | large
  · have ulp := below (by omega)
    have : roundDown num den * roundUlp num den ≤ (2 ^ 53 - 1) * half := Nat.mul_le_mul (by omega) ulp
    omega
  · have ulp := top edge
    rcases Nat.lt_or_ge (roundDown num den) (2 ^ 53 - 1) with lower | last
    · have : roundDown num den * roundUlp num den ≤ (2 ^ 53 - 2) * roundUlp num den :=
        Nat.mul_le_mul_right _ (by omega)
      omega
    · have last : roundDown num den = 2 ^ 53 - 1 := by omega
      rw [last] at number man
      omega
  · have ulp := beyond large
    have : 2 ^ 52 * roundUlp num den ≤ roundDown num den * roundUlp num den :=
      Nat.mul_le_mul_right _ (normal.resolve_left (by omega))
    omega

end

/-! ## Signs -/

/-- A magnitude with a sign. -/
def signed (neg : Bool) (m : Nat) : Int := if neg then -(m : Int) else m

theorem scaled_eq_signed (x : Sample) : F64.scaled x = signed (F64.sign x) (F64.magnitude x) := rfl

theorem signed_mul (neg : Bool) (m d : Nat) : signed neg m * (d : Int) = signed neg (m * d) := by
  unfold signed
  split <;> simp

theorem eq_signed_natAbs {n : Int} {neg : Bool} (h : n ≠ 0 → neg = decide (n < 0)) : n = signed neg n.natAbs := by
  unfold signed
  rcases Int.lt_trichotomy n 0 with below | rfl | above
  · rw [h (by omega), decide_eq_true below, if_pos rfl]
    omega
  · simp
  · rw [h (by omega), decide_eq_false (by omega), if_neg (by simp)]
    omega

theorem natAbs_signed_sub (neg : Bool) (a b : Nat) :
    (signed neg a - signed neg b).natAbs = ((a : Int) - b).natAbs := by
  unfold signed
  split <;> omega

theorem natAbs_signed_sub_other {s t : Bool} (h : s ≠ t) (a b : Nat) :
    (signed s a - signed t b).natAbs = a + b := by
  unfold signed
  cases s <;> cases t
  · exact absurd rfl h
  · simp only [Bool.false_eq_true, if_true, if_false]
    omega
  · simp only [Bool.false_eq_true, if_true, if_false]
    omega
  · exact absurd rfl h

/-- What is nearest among the magnitudes is nearest among the signed values: a value of the other sign is no
nearer than 0. -/
theorem nearest_of_nearest_magnitude {even : Prop} {neg t : Bool} {x y number : Nat}
    (nearest : ((x : Int) - number).natAbs ≤ ((y : Int) - number).natAbs ∧
      (((x : Int) - number).natAbs = ((y : Int) - number).natAbs → x ≠ y → even))
    (nearZero : ((x : Int) - number).natAbs ≤ number ∧ (((x : Int) - number).natAbs = number → x ≠ 0 → even)) :
    (signed neg x - signed neg number).natAbs ≤ (signed t y - signed neg number).natAbs ∧
      ((signed neg x - signed neg number).natAbs = (signed t y - signed neg number).natAbs →
        signed neg x ≠ signed t y → even) := by
  rw [natAbs_signed_sub]
  by_cases same : t = neg
  · rw [same, natAbs_signed_sub]
    exact ⟨nearest.1, fun tie other => nearest.2 tie fun eq => other (by rw [eq])⟩
  · rw [natAbs_signed_sub_other same]
    refine ⟨by omega, fun tie other => nearZero.2 (by omega) fun zero => other ?_⟩
    have both : x = 0 ∧ y = 0 := by omega
    rw [both.1, both.2]
    unfold signed
    simp

/-! ## Correct rounding -/

/-- Below the overflow threshold a rounding is finite, and its magnitude is the rounded one. -/
theorem round_of_fits (neg : Bool) {num den : Nat} (hden : 0 < den) (fits : num < F64.overflow * den) :
    F64.round neg num den = F64.ofSign neg (roundLow num den) ∧ roundLow num den < 2047 * 2 ^ 52 ∧
    F64.magnitude (F64.round neg num den) = rounded num den := by
  have low : ¬2047 * 2 ^ 52 ≤ roundLow num den := by
    rw [← overflow_le_iff hden]
    omega
  have pattern : F64.round neg num den = F64.ofSign neg (roundLow num den) := by rw [round_eq, if_neg low]
  refine ⟨pattern, not_le.mp low, ?_⟩
  rw [pattern]
  exact magnitude_ofSign neg (roundMan_normal hden) (roundMan_le hden) (not_le.mp low)

theorem finite_ofSign (neg : Bool) {low : Nat} (h : low < 2047 * 2 ^ 52) :
    F64.finite (F64.ofSign neg low) = true := by
  rw [F64.finite, expo_ofSign neg (by omega), bne_iff_ne]
  omega

theorem scaled_round (neg : Bool) {num den : Nat} (hden : 0 < den) (fits : num < F64.overflow * den) :
    F64.scaled (F64.round neg num den) = signed neg (rounded num den) := by
  obtain ⟨-, -, magnitude⟩ := round_of_fits neg hden fits
  rw [scaled_eq_signed, sign_round, magnitude]

theorem finite_round (neg : Bool) {num den : Nat} (hden : 0 < den) (fits : num < F64.overflow * den) :
    F64.finite (F64.round neg num den) = true := by
  obtain ⟨pattern, low, -⟩ := round_of_fits neg hden fits
  rw [pattern]
  exact finite_ofSign neg low

/-- The last bit of a finite rounding is that of the mantissa. -/
theorem lastBit_round (neg : Bool) {num den : Nat} (hden : 0 < den) (fits : num < F64.overflow * den)
    (even : roundMan num den % 2 = 0) : (F64.round neg num den).getLsbD 0 = false := by
  obtain ⟨pattern, low, -⟩ := round_of_fits neg hden fits
  rw [pattern]
  refine lastBit_ofSign neg (by omega) ?_
  unfold roundLow
  omega

/-- Rounding is correct, to nearest with ties to even (00_scope R10). -/
theorem correctlyRounded_round {n : Int} {neg : Bool} {den : Nat} (hden : 0 < den)
    (hneg : n ≠ 0 → neg = decide (n < 0)) : F64.CorrectlyRounded n den (F64.round neg n.natAbs den) := by
  refine ⟨fun fits => ?_, fun exceeds => ?_⟩
  · have lastBit := lastBit_round neg hden fits
    refine ⟨finite_round neg hden fits, fun z _ => ?_⟩
    obtain ⟨nearest, tie⟩ := rounded_nearest (num := n.natAbs) hden (representable_magnitude z)
    obtain ⟨nearZero, tieZero⟩ := rounded_nearest (num := n.natAbs) hden representable_zero
    rw [roundError_zero] at nearZero tieZero
    have result := nearest_of_nearest_magnitude (neg := neg) (t := F64.sign z)
      ⟨nearest, fun same other => lastBit (tie same fun eq => other (by rw [eq]))⟩
      ⟨nearZero, fun same other => lastBit (tieZero same fun eq => other (by rw [eq, Nat.zero_mul]))⟩
    rw [← signed_mul, ← signed_mul, ← eq_signed_natAbs hneg, ← scaled_round neg hden fits,
      ← scaled_eq_signed] at result
    obtain ⟨nearest, tie⟩ := result
    exact ⟨nearest, fun same other => tie same fun eq =>
      other (Int.eq_of_mul_eq_mul_right (by omega) eq)⟩
  · have nonzero : n ≠ 0 := by
      rintro rfl
      rw [overflow_mul] at exceeds
      have : 0 < 2 ^ 2044 * den := Nat.mul_pos (pow_pos two_pos 2044) hden
      omega
    rw [round_eq, if_pos ((overflow_le_iff hden).mp exceeds), hneg nonzero]

end Sys2Proof.Machine
end

section
/-! PROOFS. The Sample operations of binary64 (00_scope R10, log 3): each is the rounding of its exact result. -/

namespace Sys2Proof.Machine

/-! ## Exact values -/

/-- A representable magnitude is rounded to itself. -/
theorem rounded_mul_self {m den : Nat} (hden : 0 < den) (h : Representable m) : rounded (m * den) den = m := by
  have nearest := (rounded_nearest (num := m * den) hden h).1
  have same : rounded (m * den) den * den = m * den := by
    unfold roundError at nearest
    omega
  exact Nat.eq_of_mul_eq_mul_right hden same

/-- A number of at most 53 bits is representable at every scale. -/
theorem representable_mul_two_pow {m : Nat} (h : m < 2 ^ 53) (e : Nat) : Representable (m * 2 ^ e) := by
  intro k
  rcases Nat.lt_or_ge e k with coarse | fine
  · left
    calc m * 2 ^ e < 2 ^ 53 * 2 ^ e := Nat.mul_lt_mul_of_pos_right h (Nat.two_pow_pos _)
      _ = 2 ^ (53 + e) := (Nat.pow_add ..).symm
      _ ≤ 2 ^ (52 + k) := Nat.pow_le_pow_right (by decide) (by omega)
  · exact .inr (Dvd.dvd.mul_left (Nat.pow_dvd_pow 2 fine) m)

/-- Such a number does not overflow up to the scale of the largest values. -/
theorem mul_two_pow_lt_overflow {m e den : Nat} (h : m < 2 ^ 53 * den) (he : e ≤ 2044) :
    m * 2 ^ e < F64.overflow * den := by
  have scale : 2 ^ e ≤ 2 ^ 2044 := pow_le_pow_right₀ (by decide) he
  have positive : 0 < 2 ^ 2044 := pow_pos two_pos 2044
  rw [overflow_mul]
  generalize 2 ^ 2044 = top at *
  calc m * 2 ^ e ≤ m * top := Nat.mul_le_mul_left _ scale
    _ < 2 ^ 53 * den * top := Nat.mul_lt_mul_of_pos_right h positive
    _ = 2 ^ 53 * (top * den) := by ring
    _ ≤ (2 ^ 54 - 1) * (top * den) := Nat.mul_le_mul_right _ (by decide)

/-- An integer of at most 53 bits is finite and exact (00_scope R10). -/
theorem ofInt_exact {n : Int} (h : n.natAbs < 2 ^ 53) :
    F64.finite (F64.ofInt n) = true ∧ F64.scaled (F64.ofInt n) = n * F64.unit := by
  have fits : n.natAbs * F64.unit < F64.overflow * 1 := mul_two_pow_lt_overflow (by omega) (by decide)
  have same := rounded_mul_self Nat.one_pos (representable_mul_two_pow h 1074)
  rw [Nat.mul_one] at same
  refine ⟨finite_round _ Nat.one_pos fits, ?_⟩
  rw [F64.ofInt, scaled_round _ Nat.one_pos fits, F64.unit, same, ← signed_mul, ← eq_signed_natAbs fun _ => rfl]

/-- Settles O60: such an integer has far fewer bits than binary64 keeps. -/
theorem smallIntegersAreExact : Obligations.SmallIntegersAreExact := by
  intro n small
  obtain ⟨finite, value⟩ := ofInt_exact (n := n) (by omega)
  exact ⟨finite, value.trans (by simp only [F64.unit, Nat.cast_pow, Nat.cast_ofNat])⟩

/-! ## The operations on finite operands -/

theorem numbers_of_finite {x : Sample} (h : F64.finite x = true) : F64.isNaN x = false ∧ F64.isInf x = false := by
  rw [F64.finite, bne_iff_ne] at h
  simp [F64.isNaN, F64.isInf, h]

theorem add_of_finite (p : Site) {a b : Sample} (ha : F64.finite a = true) (hb : F64.finite b = true) :
    F64.add p a b =
      if F64.scaled a + F64.scaled b = 0 then F64.ofSign (F64.sign a && F64.sign b) 0
      else F64.round (decide (F64.scaled a + F64.scaled b < 0)) (F64.scaled a + F64.scaled b).natAbs 1 := by
  obtain ⟨numberA, finiteA⟩ := numbers_of_finite ha
  obtain ⟨numberB, finiteB⟩ := numbers_of_finite hb
  simp [F64.add, numberA, numberB, finiteA, finiteB]

theorem mul_of_finite (p : Site) {a b : Sample} (ha : F64.finite a = true) (hb : F64.finite b = true) :
    F64.mul p a b =
      F64.round (F64.sign a != F64.sign b) (F64.magnitude a * F64.magnitude b) F64.unit := by
  obtain ⟨numberA, finiteA⟩ := numbers_of_finite ha
  obtain ⟨numberB, finiteB⟩ := numbers_of_finite hb
  simp [F64.mul, numberA, numberB, finiteA, finiteB]

theorem isDivisor_of_scaled {b : Sample} (hb : F64.finite b = true) (nonzero : F64.scaled b ≠ 0) :
    F64.isDivisor b = true := by
  rw [F64.isDivisor, hb, Bool.true_and, Bool.not_eq_true']
  cases zero : F64.isZero b with
  | false => rfl
  | true =>
    simp only [F64.isZero, Bool.and_eq_true, beq_iff_eq] at zero
    simp [F64.scaled, F64.magnitude, zero] at nonzero

/-! ## The two zeros and the change of sign -/

theorem correctlyRounded_zero (s : Bool) : F64.CorrectlyRounded 0 1 (F64.ofSign s 0) := by
  have rounds : F64.ofSign s 0 = F64.round s (0 : Int).natAbs 1 := by simp [F64.round]
  rw [rounds]
  exact correctlyRounded_round Nat.one_pos fun nonzero => absurd rfl nonzero

theorem expo_neg (b : Sample) : F64.expo (F64.neg b) = F64.expo b := by
  rw [F64.expo, F64.neg, BitVec.extractLsb'_xor]
  simp [F64.expo]

theorem frac_neg (b : Sample) : F64.frac (F64.neg b) = F64.frac b := by
  rw [F64.frac, F64.neg, BitVec.extractLsb'_xor]
  simp [F64.frac]

theorem sign_neg (b : Sample) : F64.sign (F64.neg b) = !F64.sign b := by
  have flip : (0x8000000000000000#64).msb = true := rfl
  rw [F64.sign, F64.neg, BitVec.msb_xor, flip, Bool.xor_true, F64.sign]

theorem finite_neg (b : Sample) : F64.finite (F64.neg b) = F64.finite b := by
  rw [F64.finite, expo_neg, F64.finite]

theorem scaled_neg (b : Sample) : F64.scaled (F64.neg b) = -F64.scaled b := by
  rw [F64.scaled, F64.scaled, F64.magnitude, F64.magnitude, expo_neg, frac_neg, sign_neg]
  cases F64.sign b <;> simp

/-! ## The sign of a result -/

theorem natAbs_scaled (x : Sample) : (F64.scaled x).natAbs = F64.magnitude x := by
  unfold F64.scaled
  split <;> omega

theorem sign_of_scaled {x : Sample} (h : F64.scaled x ≠ 0) : F64.sign x = decide (F64.scaled x < 0) := by
  have magnitude := natAbs_scaled x
  rw [eq_comm]
  cases sign : F64.sign x with
  | true =>
    have : F64.scaled x = -(F64.magnitude x : Int) := if_pos sign
    exact decide_eq_true (by omega)
  | false =>
    have : F64.scaled x = F64.magnitude x := if_neg (by simp [sign])
    exact decide_eq_false (by omega)

/-- The sign of a product is that of its factors put together. -/
theorem decide_mul_neg {a b : Int} (ha : a ≠ 0) (hb : b ≠ 0) :
    decide (a * b < 0) = (decide (a < 0) != decide (b < 0)) := by
  rw [Bool.eq_iff_iff]
  simp only [decide_eq_true_eq, bne_iff_ne, ne_eq, decide_eq_decide, Int.mul_neg_iff]
  omega

theorem sign_mul_of_scaled {a b : Sample} (h : F64.scaled a * F64.scaled b ≠ 0) :
    (F64.sign a != F64.sign b) = decide (F64.scaled a * F64.scaled b < 0) := by
  obtain ⟨ha, hb⟩ := mul_ne_zero_iff.mp h
  rw [decide_mul_neg ha hb, sign_of_scaled ha, sign_of_scaled hb]

/-! ## The obligation -/

theorem add_correctlyRounded (p : Site) {a b : Sample} (ha : F64.finite a = true) (hb : F64.finite b = true) :
    F64.CorrectlyRounded (F64.scaled a + F64.scaled b) 1 (F64.add p a b) := by
  rw [add_of_finite p ha hb]
  split
  next zero =>
    rw [zero]
    exact correctlyRounded_zero _
  next => exact correctlyRounded_round Nat.one_pos fun _ => rfl

theorem sub_correctlyRounded (p : Site) {a b : Sample} (ha : F64.finite a = true) (hb : F64.finite b = true) :
    F64.CorrectlyRounded (F64.scaled a - F64.scaled b) 1 (F64.sub p a b) := by
  rw [F64.sub, sub_eq_add_neg, ← scaled_neg]
  exact add_correctlyRounded p ha ((finite_neg b).trans hb)

theorem unit_pos : 0 < F64.unit := pow_pos two_pos 1074

theorem unit_cast : (F64.unit : Int) = 2 ^ 1074 := by
  simp only [F64.unit, Nat.cast_pow, Nat.cast_ofNat]

theorem mul_correctlyRounded (p : Site) {a b : Sample} (ha : F64.finite a = true) (hb : F64.finite b = true) :
    F64.CorrectlyRounded (F64.scaled a * F64.scaled b) F64.unit (F64.mul p a b) := by
  rw [mul_of_finite p ha hb, ← natAbs_scaled, ← natAbs_scaled, ← Int.natAbs_mul]
  exact correctlyRounded_round unit_pos sign_mul_of_scaled

theorem div_of_finite (p : Site) {a b : Sample} (ha : F64.finite a = true) (hb : F64.finite b = true)
    (nonzero : F64.scaled b ≠ 0) :
    F64.div p a b =
      F64.round (F64.sign a != F64.sign b) (F64.magnitude a * F64.unit) (F64.magnitude b) := by
  obtain ⟨number, finite⟩ := numbers_of_finite ha
  rw [div_of_isDivisor number (isDivisor_of_scaled hb nonzero), finite, if_neg Bool.false_ne_true]

theorem div_correctlyRounded (p : Site) {a b : Sample} (ha : F64.finite a = true) (hb : F64.finite b = true)
    (nonzero : F64.scaled b ≠ 0) :
    F64.CorrectlyRounded (F64.scaled a * F64.unit * (F64.scaled b).sign) (F64.scaled b).natAbs (F64.div p a b) := by
  have magnitude : (F64.scaled a * F64.unit * (F64.scaled b).sign).natAbs = F64.magnitude a * F64.unit := by
    rw [Int.natAbs_mul, Int.natAbs_sign_of_ne_zero nonzero, Nat.mul_one, Int.natAbs_mul, natAbs_scaled,
      Int.natAbs_natCast]
  have unit : (0 : Int) < F64.unit := Int.natCast_pos.mpr unit_pos
  rw [div_of_finite p ha hb nonzero, ← magnitude, ← natAbs_scaled b]
  refine correctlyRounded_round (Int.natAbs_pos.mpr nonzero) fun result => ?_
  obtain ⟨shifted, divisor⟩ := mul_ne_zero_iff.mp result
  obtain ⟨dividend, -⟩ := mul_ne_zero_iff.mp shifted
  rw [decide_mul_neg shifted divisor, decide_mul_neg dividend unit.ne', decide_eq_false unit.not_gt, Bool.bne_false,
    sign_of_scaled dividend, sign_of_scaled nonzero]
  simp only [Int.sign_neg_iff]

theorem sign_add_of_zero (p : Site) {a b : Sample} (ha : F64.finite a = true) (hb : F64.finite b = true)
    (zero : F64.scaled a + F64.scaled b = 0) : F64.sign (F64.add p a b) = (F64.sign a && F64.sign b) := by
  rw [add_of_finite p ha hb, if_pos zero]
  exact sign_ofSign _ (by decide)

/-- Settles O59: every operation is the rounding of its exact result, with the sign binary64 gives it; a difference
is the sum with the sign changed. -/
theorem arithmeticIsNearest : Obligations.ArithmeticIsNearest := by
  intro p a b ha hb
  refine ⟨add_correctlyRounded p ha hb, sub_correctlyRounded p ha hb, ?_,
    fun nonzero => ?_, sign_add_of_zero p ha hb, fun zero => ?_, ?_, fun nonzero => ?_⟩
  · have product := mul_correctlyRounded p ha hb
    rwa [F64.unit] at product
  · rw [← unit_cast]
    exact div_correctlyRounded p ha hb nonzero
  · rw [sub_binary64, F64.sub, ← sign_neg]
    exact sign_add_of_zero p ha ((finite_neg b).trans hb) (by rw [scaled_neg, ← sub_eq_add_neg, zero])
  · rw [mul_binary64, mul_of_finite p ha hb, sign_round]
  · rw [div_binary64, div_of_finite p ha hb nonzero, sign_round]

end Sys2Proof.Machine
end

section
/-! PROOFS. The channel volume under binary64 (40_envelope R118 to R120, R125): one correct rounding of
`lin / (div * 127)`, and its order. -/

namespace Sys2Proof.Machine

/-! ## Roundings of the same quotient, and of greater ones -/

/-- A rounding depends on the quotient only. -/
theorem round_scale (neg : Bool) {k : Nat} (hk : 0 < k) (num den : Nat) :
    F64.round neg (k * num) (k * den) = F64.round neg num den := by
  have shift : roundShift (k * num) (k * den) = roundShift num den := by
    rw [roundShift, Nat.mul_div_mul_left _ _ hk, roundShift]
  have ulp : roundUlp (k * num) (k * den) = k * roundUlp num den := by
    rw [roundUlp, shift, roundUlp, Nat.mul_left_comm]
  have down : roundDown (k * num) (k * den) = roundDown num den := by
    rw [roundDown, ulp, Nat.mul_div_mul_left _ _ hk, roundDown]
  have up : RoundsUp (k * num) (k * den) ↔ RoundsUp num den := by
    unfold RoundsUp
    rw [ulp, down, Nat.mul_mod_mul_left, Nat.mul_left_comm, Nat.mul_lt_mul_left hk, Nat.mul_right_inj hk.ne']
  have man : roundMan (k * num) (k * den) = roundMan num den := by
    unfold roundMan
    exact if_congr up (by rw [down]) down
  rw [round_eq, round_eq, roundLow, shift, man, roundLow]

/-- Two fractions of the same value are rounded to the same. -/
theorem round_congr (neg : Bool) {num den num' den' : Nat} (hden : 0 < den) (hden' : 0 < den')
    (same : num * den' = num' * den) : F64.round neg num den = F64.round neg num' den' := by
  rw [← round_scale neg hden' num den, ← round_scale neg hden num' den', Nat.mul_comm den' num, same,
    Nat.mul_comm num' den, Nat.mul_comm den' den]

theorem representable_rounded {num den : Nat} (hden : 0 < den) (fits : num < F64.overflow * den) :
    Representable (rounded num den) := by
  obtain ⟨-, -, magnitude⟩ := round_of_fits false hden fits
  rw [← magnitude]
  exact representable_magnitude _

/-- A greater number is not rounded to a smaller one (00_scope R10). -/
theorem scaled_round_mono {num den num' den' : Nat} (hden : 0 < den) (hden' : 0 < den')
    (fits : num < F64.overflow * den) (fits' : num' < F64.overflow * den') (le : num * den' ≤ num' * den) :
    F64.scaled (F64.round false num den) ≤ F64.scaled (F64.round false num' den') := by
  rcases Nat.eq_or_lt_of_le le with same | less
  · rw [round_congr false hden hden' same]
  · rw [scaled_round false hden fits, scaled_round false hden' fits']
    by_contra falls
    have falls : rounded num' den' < rounded num den := by
      simpa [signed] using falls
    have low := (rounded_nearest (num := num) hden (representable_rounded hden' fits')).1
    have high := (rounded_nearest (num := num') hden' (representable_rounded hden fits)).1
    have gap := Nat.mul_lt_mul_of_pos_right falls hden
    have gap' := Nat.mul_lt_mul_of_pos_right falls hden'
    unfold roundError at low high
    have above : (rounded num den + rounded num' den') * den ≤ 2 * num := by
      rw [Nat.add_mul]
      omega
    have below : 2 * num' ≤ (rounded num den + rounded num' den') * den' := by
      rw [Nat.add_mul]
      omega
    have := Nat.mul_le_mul_right den' above
    have := Nat.mul_le_mul_right den below
    linarith

/-! ## The volume as one rounding -/

/-- A natural number of at most 53 bits, as a Sample. -/
theorem ofInt_parts {n : Nat} (h : n < 2 ^ 53) :
    F64.finite (F64.ofInt n) = true ∧ F64.sign (F64.ofInt n) = false ∧
      F64.magnitude (F64.ofInt n) = n * F64.unit := by
  obtain ⟨finite, value⟩ := ofInt_exact (n := n) (by simpa using h)
  refine ⟨finite, ?_, ?_⟩
  · rw [F64.ofInt, sign_round]
    simp
  · rw [← natAbs_scaled, value, ← Nat.cast_mul, Int.natAbs_natCast]

theorem div_ofInt (p : Site) {x : Sample} (hx : F64.finite x = true) (positive : F64.sign x = false) {n : Nat}
    (hn : 0 < n) (h : n < 2 ^ 53) :
    F64.div p x (F64.ofInt n) = F64.round false (F64.magnitude x) n := by
  obtain ⟨finite, sign, magnitude⟩ := ofInt_parts h
  have nonzero : F64.scaled (F64.ofInt n) ≠ 0 := by
    rw [← Int.natAbs_ne_zero, natAbs_scaled, magnitude]
    exact (Nat.mul_pos hn unit_pos).ne'
  rw [div_of_finite p hx finite nonzero, positive, sign, magnitude, Nat.mul_comm _ F64.unit, Nat.mul_comm n]
  exact round_scale false unit_pos _ _

theorem unit_eq_mul {j : Nat} (hj : j ≤ 1074) : F64.unit = 2 ^ (1074 - j) * 2 ^ j := by
  rw [F64.unit, ← pow_add, Nat.sub_add_cancel hj]

/-- A quotient by a power of two is exact while its units are whole. -/
theorem rounded_div_two_pow {n j : Nat} (h : n < 2 ^ 53) (hj : j ≤ 1074) :
    rounded (n * F64.unit) (2 ^ j) = n * 2 ^ (1074 - j) := by
  rw [unit_eq_mul hj, ← Nat.mul_assoc]
  exact rounded_mul_self (Nat.two_pow_pos j) (representable_mul_two_pow h _)

/-- The divisor of each decibel range is a power of two (40_envelope R120). -/
theorem attenuation_eq_two_pow (db : Int) : ∃ j : Nat, j ≤ 4 ∧ attenuation db = ((2 ^ j : Nat) : Int) := by
  unfold attenuation
  split_ifs
  · exact ⟨0, by decide, rfl⟩
  · exact ⟨1, by decide, rfl⟩
  · exact ⟨2, by decide, rfl⟩
  · exact ⟨4, by decide, rfl⟩

/-- Of the two divisions of the volume the first is exact, so it is one rounding (40_envelope R118). -/
theorem div_div_ofInt (p q : Site) {lin j : Nat} (hlin : lin < 2 ^ 53) (hj : j ≤ 4) :
    F64.div q (F64.div p (F64.ofInt lin) (F64.ofInt ((2 ^ j : Nat) : Int))) (F64.ofInt 127) =
      F64.round false (lin * F64.unit) (2 ^ j * 127) := by
  have divisor : 2 ^ j < 2 ^ 53 := Nat.pow_lt_pow_right (by decide) (by omega)
  have fits : lin * F64.unit < F64.overflow * 2 ^ j :=
    mul_two_pow_lt_overflow (hlin.trans_le (Nat.le_mul_of_pos_right _ (Nat.two_pow_pos j))) (by decide)
  obtain ⟨finite, sign, magnitude⟩ := ofInt_parts hlin
  have inner := div_ofInt p finite sign (Nat.two_pow_pos j) divisor
  rw [magnitude] at inner
  have innerFinite := finite_round false (Nat.two_pow_pos j) fits
  obtain ⟨-, -, innerMagnitude⟩ := round_of_fits false (Nat.two_pow_pos j) fits
  rw [inner, show ((127 : Int)) = ((127 : Nat) : Int) from rfl,
    div_ofInt q innerFinite (sign_round ..) (by decide) (by decide), innerMagnitude,
    rounded_div_two_pow hlin (by omega)]
  refine round_congr false (by decide) (Nat.mul_pos (Nat.two_pow_pos j) (by decide)) ?_
  rw [← Nat.mul_assoc, Nat.mul_assoc lin, ← unit_eq_mul (by omega)]

theorem linOf_eq (c : Cfg) (vel : BitVec 7) (timer : Int) :
    (linOf c vel timer).toNat = linAt c (dbIndex c vel timer) := by
  rw [linOf, linAt, List.getD_eq_getElem _ _ (dbIndex_inBounds c vel timer)]

/-- The volume at a decibel index (40_envelope R118). -/
def volumeAt (c : Cfg) (db : Int) : Sample :=
  F64.round false (linAt c db * F64.unit) ((attenuation db).toNat * 127)

theorem calcVol_eq_volumeAt {c : Cfg} (num : c.num = .binary64) (p : Site) (vel : BitVec 7) (timer : Int) :
    calcVol c p vel timer = volumeAt c (dbIndex c vel timer) := by
  obtain ⟨j, hj, divisor⟩ := attenuation_eq_two_pow (dbIndex c vel timer)
  have lin : linAt c (dbIndex c vel timer) < 2 ^ 53 := by
    rw [← linOf_eq]
    exact (linOf c vel timer).isLt.trans (by decide)
  rw [calcVol, num, linOf_eq, divisor, volumeAt, divisor, Int.toNat_natCast]
  exact div_div_ofInt _ _ lin hj

theorem toNat_attenuation (db : Int) : (attenuation db).toNat =
    if db < -240 then 16 else if db < -120 then 4 else if db < -60 then 2 else 1 := by
  unfold attenuation
  split_ifs <;> omega

/-- Settles O30: the volume is one rounding, at the same index and with the same divisor. -/
theorem volumeIsCorrectlyRounded : Obligations.VolumeIsCorrectlyRounded := by
  intro c p vel timer num
  have index : dbIndex c vel timer = max (1 - (c.lindb.val.length : Int))
      (min 0 ((c.dbvel.toList.getD vel.toNat 0).toInt + Int.fdiv timer 128)) := by
    have entry : c.dbvel[vel.toNat] = c.dbvel.toList.getD vel.toNat 0 := by
      have inside : vel.toNat < 128 := vel.isLt
      simp [inside]
    rw [dbIndex, entry, Int.fdiv_eq_ediv_of_nonneg _ (by decide)]
    rfl
  dsimp only
  rw [calcVol_eq_volumeAt num, volumeAt, toNat_attenuation, index, F64.unit, linAt]
  rfl

/-! ## The order of volumes -/

theorem dbIndex_mono (c : Cfg) (vel : BitVec 7) {timer timer' : Int} (h : timer ≤ timer') :
    dbIndex c vel timer ≤ dbIndex c vel timer' := by
  have : envDb timer ≤ envDb timer' := Int.ediv_le_ediv (by decide) h
  unfold dbIndex
  omega

theorem dbIndex_mem_range (c : Cfg) (vel : BitVec 7) (timer : Int) :
    dbMin c ≤ dbIndex c vel timer ∧ dbIndex c vel timer ≤ 0 := by
  have := c.lindb.property.1
  unfold dbIndex dbMin nLin
  omega

/-- The rounding of a volume does not overflow. -/
theorem volumeAt_fits (c : Cfg) (db : Int) : 0 < (attenuation db).toNat * 127 ∧
    linAt c db * F64.unit < F64.overflow * ((attenuation db).toNat * 127) := by
  have entry : linAt c db < 2 ^ 8 := BitVec.isLt _
  have positive : 0 < (attenuation db).toNat := by
    rw [toNat_attenuation]
    split_ifs <;> decide
  exact ⟨by omega, mul_two_pow_lt_overflow (by omega) (by decide)⟩

/-- The volume does not fall where `G(db)` does not. -/
theorem volumeAt_mono {c : Cfg} {a b : Int}
    (order : (linAt c a : Int) * attenuation b ≤ (linAt c b : Int) * attenuation a) :
    F64.scaled (volumeAt c a) ≤ F64.scaled (volumeAt c b) := by
  obtain ⟨positive, fits⟩ := volumeAt_fits c a
  obtain ⟨positive', fits'⟩ := volumeAt_fits c b
  have nonneg (db : Int) : ((attenuation db).toNat : Int) = attenuation db := by
    obtain ⟨j, -, divisor⟩ := attenuation_eq_two_pow db
    rw [divisor, Int.toNat_natCast]
  rw [← nonneg a, ← nonneg b] at order
  have order : linAt c a * (attenuation b).toNat ≤ linAt c b * (attenuation a).toNat := by exact_mod_cast order
  refine scaled_round_mono positive positive' fits fits' ?_
  calc linAt c a * F64.unit * ((attenuation b).toNat * 127)
      = linAt c a * (attenuation b).toNat * (F64.unit * 127) := by ring
    _ ≤ linAt c b * (attenuation a).toNat * (F64.unit * 127) := Nat.mul_le_mul_right _ order
    _ = linAt c b * F64.unit * ((attenuation a).toNat * 127) := by ring

/-- Under `ROM_MONOTONE` the volume does not fall where the timer does not (40_envelope R125). -/
theorem calcVol_mono {c : Cfg} (num : c.num = .binary64) (rom : RomMonotone c) (p q : Site) (vel : BitVec 7)
    {timer timer' : Int} (h : timer ≤ timer') :
    F64.scaled (calcVol c p vel timer) ≤ F64.scaled (calcVol c q vel timer') := by
  obtain ⟨low, -⟩ := dbIndex_mem_range c vel timer
  obtain ⟨-, high⟩ := dbIndex_mem_range c vel timer'
  have order := rom _ _ low (dbIndex_mono c vel h) high
  rw [calcVol_eq_volumeAt num, calcVol_eq_volumeAt num]
  exact volumeAt_mono order

/-- A volume is not negative. -/
theorem scaled_calcVol_nonneg {c : Cfg} (num : c.num = .binary64) (p : Site) (vel : BitVec 7) (timer : Int) :
    0 ≤ F64.scaled (calcVol c p vel timer) := by
  rw [calcVol_eq_volumeAt num, volumeAt, scaled_eq_signed, sign_round]
  exact Int.natCast_nonneg _

/-! ## The volume over a tick -/

/-- The volume of a voice that still sounds after a tick is that of its new timer. -/
theorem vol_ticked_of_active {s : State} {v : Slot} (active : (s.voice v).active = true)
    (sounding : (s.ticked.voice v).active = true) : (s.ticked.voice v).vol =
      calcVol s.cfg (v.toNat :: s.site) (s.voice v).vel (s.ticked.voice v).timer.toInt := by
  obtain ⟨hactive, -, htimer, hvol⟩ := tickVoice_envelope s v active
  rw [voice_ticked] at sounding ⊢
  rw [hvol, htimer, if_pos (hactive.symm.trans sounding)]

/-- Settles O31: the attack raises the timer, the release lowers it or cuts the voice, and the volume follows. -/
theorem volumeIsMonotone : Obligations.VolumeIsMonotone := by
  intro s v ready inv num rom active
  refine ⟨s.ticked, exec_tick ready, ?_⟩
  have ⟨_, _, voices⟩ := inv
  obtain ⟨⟨-, ⟨-, high⟩, -⟩, volume, -⟩ := voiceInv_iff.mp (voices v)
  rw [VolumeInv, if_pos active] at volume
  refine ⟨fun attacking running => ?_, fun released noPulse => ?_, fun sustaining running => ?_⟩
  · obtain ⟨t, h, sounding, timer, -⟩ := attackMovesTimer s v ready inv active attacking running
    cases (exec_tick ready).symm.trans h
    rw [volume, vol_ticked_of_active active sounding, timer]
    exact calcVol_mono num rom _ _ _ (attackTimer_mem_range _ high).1
  · obtain ⟨t, h, cut, falls⟩ := releaseFallsToCut s v ready inv active released
    cases (exec_tick ready).symm.trans h
    rw [volume]
    by_cases ends : (s.voice v).timer.toInt - ((s.voice v).rel.toNat : Int) ≤ -92544
    · obtain ⟨-, -, -, silent, -⟩ := cut (.inr ends)
      have zero : F64.scaled F64.s0 = 0 := by decide
      rw [silent, num, s0_binary64, zero]
      exact scaled_calcVol_nonneg num ..
    · obtain ⟨sounding, -, timer⟩ := falls noPulse (not_le.mp ends)
      rw [vol_ticked_of_active active sounding, timer]
      exact calcVol_mono num rom _ _ _ (by omega)
  · obtain ⟨t, h, -, -, -, same⟩ := sustainIsConstant.1 s v ready inv active sustaining running
    cases (exec_tick ready).symm.trans h
    exact same

end Sys2Proof.Machine
end
